-- ==== Sys2Proof/Word.lean ====
section
/-! DEFINITION. The words of SBUS-CORE: bytes, channels, port words, the frame and the packet value
(00_scope.md R5, R7, R11; 30_encoding.md R60, R66). -/

namespace Sys2Proof

/-- A byte is 8 bits (00_scope.md R7). -/
abbrev Byte := BitVec 8

/-- One channel value, 11 bits, 0..2047 (00_scope.md R5, CH_BITS). -/
abbrev Chan := BitVec 11

/-- The transaction word T of the receive port (30_encoding.md R60). -/
abbrev TWord := BitVec 11

/-- The input word E of the ENC port (30_encoding.md R66). -/
abbrev EWord := BitVec 180

/-- A frame: 25 bytes, byte 0 first (00_scope.md R5 FRAME_LEN, R11 RawFrame; 30_encoding.md R67). -/
abbrev Frame := Vector Byte 25

/-- The packet value: 16 channels and four booleans (00_scope.md R11 ParsedPacket). A channel is 11 bits wide,
so a value above 2047 cannot be written (30_encoding.md R66; notes/assumptions/11.md). -/
structure Packet where
  ch : Vector Chan 16
  ch17 : Bool
  ch18 : Bool
  frameLost : Bool
  failsafe : Bool
  deriving DecidableEq, Repr

/-- What the host presents to the block: a word on the receive port, or a word on the ENC port
(30_encoding.md R60, R66; notes/assumptions/1.md). -/
inductive PortWord where
  | t (w : TWord)
  | e (w : EWord)
  deriving DecidableEq, Repr

end Sys2Proof
end

