-- ==== Sys2Proof/Syntax.lean ====
section
/-! DEFINITION. The operations of SBUS-CORE, one constructor per row of spec/opcode_table.json. -/

namespace Sys2Proof

/-- The operations (30_encoding.md R61, R66, R73). -/
inductive Instr where
  /-- RESET, the system reset (40_synchronizer.md R110). -/
  | reset
  /-- IDLE, a step with no byte (R107). -/
  | idle
  /-- FEED, one byte (R101). -/
  | feed (b : Byte)
  /-- RESYNC, the explicit reset to AwaitingHeader (R108). -/
  | resync
  /-- RESYNC_FEED, RESYNC and then FEED in one step (R109). -/
  | resyncFeed (b : Byte)
  /-- ENCODE, a packet on the ENC port (42_codec.md R160). -/
  | encode (p : Packet)
  deriving DecidableEq, Repr

/-- The row's mnemonic in spec/opcode_table.json. -/
def Instr.mnemonic : Instr → String
  | .reset => "RESET"
  | .idle => "IDLE"
  | .feed _ => "FEED"
  | .resync => "RESYNC"
  | .resyncFeed _ => "RESYNC_FEED"
  | .encode _ => "ENCODE"

end Sys2Proof
end

