-- ==== Sys2Proof/WellFormed.lean ====
section
/-! DEFINITION. Well-formedness. Of an operation: no value of T or E is illegal (30_encoding.md R61, R71), so the
widths of Instr's operands carry all of it. Of a line of the assembler syntax (R73, R74), whose numbers are written
by hand: the ranges R73 gives. -/

namespace Sys2Proof

/-- Every operation is well formed (30_encoding.md R71: "no value is illegal or reserved"). -/
def Instr.wf : Instr → Bool
  | .reset => true
  | .idle => true
  | .feed _ => true
  | .resync => true
  | .resyncFeed _ => true
  | .encode _ => true

/-- A line of the assembler syntax, numbers as written (30_encoding.md R73), pseudo-instructions included (R74). -/
inductive Line where
  | reset
  | idle
  | feed (b : Nat)
  | resync
  | resyncFeed (b : Nat)
  | encode (ch : List Nat) (fl : Nat)
  | feeds (bs : List Nat)
  | feedframe (ch : List Nat) (fl : Nat)
  deriving DecidableEq, Repr

/-- A byte operand is 8 bits (R73). -/
def Line.byteOk (b : Nat) : Bool := b < 256

/-- The operands of ENCODE: sixteen values 0..2047 and one hex digit (R73). -/
def Line.packetOk (ch : List Nat) (fl : Nat) : Bool :=
  ch.length == 16 && ch.all (fun c => c ≤ 2047) && fl < 16

/-- The line can be encoded. -/
def Line.wf : Line → Bool
  | .reset => true
  | .idle => true
  | .feed b => Line.byteOk b
  | .resync => true
  | .resyncFeed b => Line.byteOk b
  | .encode ch fl => Line.packetOk ch fl
  | .feeds bs => bs.all Line.byteOk
  | .feedframe ch fl => Line.packetOk ch fl

end Sys2Proof
end

