-- ==== Sys2Proof/Decode.lean ====
section
/-! DEFINITION. Decoding of the port words T and E, total (30_encoding.md R60 to R62, R66, R71), the decoding of raw
numbers, which rejects by name, and the encoder (R73, the opcode table's canonical words). -/

namespace Sys2Proof

/-- T[10], `rst` (30_encoding.md R60). -/
def tRst (w : TWord) : Bool := w.getLsbD 10
/-- T[9], `resync` (R60). -/
def tResync (w : TWord) : Bool := w.getLsbD 9
/-- T[8], `in_valid` (R60). -/
def tInValid (w : TWord) : Bool := w.getLsbD 8
/-- T[7:0], `in_data` (R60). -/
def tInData (w : TWord) : Byte := w.extractLsb' 0 8

/-- The operation T selects: the table of R61. Fields without effect are ignored (R62). -/
def decodeT (w : TWord) : Instr :=
  match tRst w, tResync w, tInValid w with
  | true, _, _ => .reset
  | false, false, false => .idle
  | false, false, true => .feed (tInData w)
  | false, true, false => .resync
  | false, true, true => .resyncFeed (tInData w)

/-- The packet on the ENC port: channel i is E[11*i+10 : 11*i], the flags are E[176] to E[179] (R66). -/
def unpackE (e : EWord) : Packet where
  ch := Vector.ofFn fun i : Fin 16 => e.extractLsb' (11 * i.val) 11
  ch17 := e.getLsbD 176
  ch18 := e.getLsbD 177
  frameLost := e.getLsbD 178
  failsafe := e.getLsbD 179

/-- The E word of a packet, the layout of R66 with the high fields first. -/
def packE (p : Packet) : EWord :=
  BitVec.ofBool p.failsafe ++ BitVec.ofBool p.frameLost ++ BitVec.ofBool p.ch18 ++ BitVec.ofBool p.ch17
    ++ p.ch[15] ++ p.ch[14] ++ p.ch[13] ++ p.ch[12] ++ p.ch[11] ++ p.ch[10] ++ p.ch[9] ++ p.ch[8]
    ++ p.ch[7] ++ p.ch[6] ++ p.ch[5] ++ p.ch[4] ++ p.ch[3] ++ p.ch[2] ++ p.ch[1] ++ p.ch[0]

/-- Every E is an ENCODE input (opcode table, row ENCODE; R71). -/
def decodeE (e : EWord) : Instr := .encode (unpackE e)

/-- The operation a port word selects. -/
def decodeWord : PortWord → Instr
  | .t w => decodeT w
  | .e e => decodeE e

/-- The word is a transaction of SYNC, which takes a step of SYNC; an E word takes none (30_encoding.md R73). -/
def PortWord.isT : PortWord → Bool
  | .t _ => true
  | .e _ => false

/-- The canonical port word of an operation: 0 in every field without effect (R62, R73). -/
def encode : Instr → PortWord
  | .reset => .t 0x400#11
  | .idle => .t 0x000#11
  | .feed b => .t (0x100#11 ||| b.setWidth 11)
  | .resync => .t 0x200#11
  | .resyncFeed b => .t (0x300#11 ||| b.setWidth 11)
  | .encode p => .e (packE p)

/-- The two input ports (30_encoding.md R60, R66). -/
inductive Port where
  | t
  | e
  deriving DecidableEq, Repr

/-- Why a raw number is no port word (notes/assumptions/7.md). No value that fits its port is rejected (R71). -/
inductive DecodeError where
  /-- The number has a bit above T[10]. -/
  | tWordTooWide
  /-- The number has a bit above E[179]. -/
  | eWordTooWide
  deriving DecidableEq, Repr

/-- A raw number as a word of a port, rejected by name where it does not fit. -/
def wordOnPort (p : Port) (w : Nat) : Except DecodeError PortWord :=
  match p with
  | .t => if w < 2 ^ 11 then .ok (.t (BitVec.ofNat 11 w)) else .error .tWordTooWide
  | .e => if w < 2 ^ 180 then .ok (.e (BitVec.ofNat 180 w)) else .error .eWordTooWide

/-- Decoding of a raw number on a port. -/
def decodeBits (p : Port) (w : Nat) : Except DecodeError Instr :=
  (wordOnPort p w).map decodeWord

/-- Which port a number of nbits bits stands for: T has 11 bits, 16 in whole bytes; every other width is the ENC
port's (the table gives row ENCODE no fixed bits). DESIGN CHOICE, safe: notes/assumptions/7.md. -/
def portOfWidth (nbits : Nat) : Port :=
  if 11 ≤ nbits ∧ nbits ≤ 16 then .t else .e

/-- The instruction the decoder reads from a word numbered as spec/opcode_table.json numbers it. -/
def decodeTableWord (nbits w : Nat) : Option Instr :=
  (decodeBits (portOfWidth nbits) w).toOption

/-- A T row of spec/opcode_table.json. -/
structure OpRow where
  mnemonic : String
  mask : TWord
  pattern : TWord
  deriving DecidableEq, Repr

/-- The T rows of spec/opcode_table.json. -/
def opRows : List OpRow :=
  [⟨"RESET", 0x400#11, 0x400#11⟩, ⟨"IDLE", 0x700#11, 0x000#11⟩, ⟨"FEED", 0x700#11, 0x100#11⟩,
   ⟨"RESYNC", 0x700#11, 0x200#11⟩, ⟨"RESYNC_FEED", 0x700#11, 0x300#11⟩]

/-- The word belongs to the row. -/
def OpRow.holds (r : OpRow) (w : TWord) : Bool := w &&& r.mask == r.pattern

end Sys2Proof
end

