-- ==== Sys2Proof/Config.lean ====
section
/-! DEFINITION. The fixed parameters of SBUS-CORE (00_scope.md R5), hardwired (10_state.md R29), and the one
source of free values, the unspecified bytes of BUF (93_implementation_defined.md U1). -/

namespace Sys2Proof

/-- FRAME_LEN (R5): bytes in one frame. -/
def Config.frameLen : Nat := 25
/-- HEADER (R5): the value of byte 0. -/
def Config.header : Byte := 0x0F#8
/-- PAYLOAD_FIRST (R5). -/
def Config.payloadFirst : Nat := 1
/-- PAYLOAD_LAST (R5). -/
def Config.payloadLast : Nat := 22
/-- PAYLOAD_BITS (R5). -/
def Config.payloadBits : Nat := 176
/-- FLAG_IDX (R5): the index of the flag byte. -/
def Config.flagIdx : Nat := 23
/-- FOOTER_IDX (R5): the index of the footer byte. -/
def Config.footerIdx : Nat := 24
/-- NUM_CH (R5). -/
def Config.numCh : Nat := 16
/-- CH_BITS (R5). -/
def Config.chBits : Nat := 11
/-- CH_MASK (R5), on the 19 bits that R151 shifts on. -/
def Config.chMask : BitVec 19 := 0x7FF#19
/-- FOOTER_SET (R5): the footer values VAL accepts; the set is closed (41_validator.md R131). -/
def Config.footerSet : List Byte := [0x00#8, 0x04#8, 0x14#8, 0x24#8, 0x34#8]
/-- ENC_FOOTER (R5): the footer value ENC writes. -/
def Config.encFooter : Byte := 0x00#8
/-- FLAG_CH17 (R5): a bit of byte 23. -/
def Config.flagCh17 : Nat := 0
/-- FLAG_CH18 (R5). -/
def Config.flagCh18 : Nat := 1
/-- FLAG_LOST (R5). -/
def Config.flagLost : Nat := 2
/-- FLAG_FAILSAFE (R5). -/
def Config.flagFailsafe : Nat := 3
/-- READ_COUNT (R5): the bytes SYNC reads after the header. -/
def Config.readCount : Nat := 24

/-- FREE VALUE. What a byte of BUF holds that nothing has written since the last RESET: any value
(10_state.md R32; 40_synchronizer.md R110; U1). The first argument is the state's epoch, the second the address.
No body, so nothing can be proved of it. DESIGN CHOICE of form, safe: notes/assumptions/3.md. -/
opaque Config.staleByte : Nat → Nat → Byte

end Sys2Proof
end

