-- ==== Sys2Proof/Machine/Flags.lean ====
section
/-! DEFINITION. The bits of the frame's flag byte (30_encoding.md R69). The block has no condition codes
(10_state.md R28): this byte is frame data. -/

namespace Sys2Proof.Machine

/-- Bit 0, ch17 (30_encoding.md R69; 42_codec.md R152). -/
def flagCh17 (b : Byte) : Bool := b.getLsbD Config.flagCh17
/-- Bit 1, ch18. -/
def flagCh18 (b : Byte) : Bool := b.getLsbD Config.flagCh18
/-- Bit 2, frame_lost. -/
def flagFrameLost (b : Byte) : Bool := b.getLsbD Config.flagLost
/-- Bit 3, failsafe. -/
def flagFailsafe (b : Byte) : Bool := b.getLsbD Config.flagFailsafe

/-- Bits 7 to 4, reserved, which VAL wants zero (30_encoding.md R69; 41_validator.md R132). -/
def flagReserved (b : Byte) : BitVec 4 := b.extractLsb' 4 4

/-- The flag check: bits 7 to 4 are all zero (41_validator.md R132). -/
def flagsLegal (b : Byte) : Bool := flagReserved b == 0#4

/-- The flag byte ENC writes: zeros in bits 7 to 4, E[179] to E[176] in bits 3 to 0 (42_codec.md R160, R162). -/
def flagByteOf (e : EWord) : Byte := (e.extractLsb' 176 4).setWidth 8

end Sys2Proof.Machine
end

