-- ==== Sys2Proof/Machine/Operands.lean ====
section
/-! DEFINITION. The fields of a frame: its payload as one 176-bit number, and the channel fields in it
(20_memory.md R46; 30_encoding.md R68). -/

namespace Sys2Proof.Machine

/-- The payload value P = F[22] .. F[1], F[1] in bits 7:0 (30_encoding.md R68; 42_codec.md R150). -/
def payload (f : Frame) : BitVec 176 :=
  f[22] ++ f[21] ++ f[20] ++ f[19] ++ f[18] ++ f[17] ++ f[16] ++ f[15] ++ f[14] ++ f[13] ++ f[12]
    ++ f[11] ++ f[10] ++ f[9] ++ f[8] ++ f[7] ++ f[6] ++ f[5] ++ f[4] ++ f[3] ++ f[2] ++ f[1]

/-- Channel i is P[11*i+10 : 11*i] (20_memory.md R46; 30_encoding.md R68). -/
def channelField (p : BitVec 176) (i : Fin 16) : Chan := p.extractLsb' (11 * i.val) 11

/-- Byte k of the payload bitstream, k from 1 to 22: P[8*(k-1)+7 : 8*(k-1)] (42_codec.md R160). -/
def payloadByte (p : BitVec 176) (k : Nat) : Byte := p.extractLsb' (8 * (k - 1)) 8

/-- The flag byte F[23] (20_memory.md R41). -/
def flagByte (f : Frame) : Byte := f[23]

/-- The footer byte F[24] (20_memory.md R41). -/
def footerByte (f : Frame) : Byte := f[24]

end Sys2Proof.Machine
end

