-- ==== Sys2Proof/Machine/Codec.lean ====
section
/-! DEFINITION. VAL, DEC and ENC as functions: they hold no state (10_state.md R30). VALIDATE of 41_validator.md,
DECODE and ENCODE of 42_codec.md, the result of a completed frame (40_synchronizer.md R105), and the byte forms of
the tables R151 and R161, written from those tables. -/

namespace Sys2Proof.Machine

/-- The two error results, each with the byte it carries (60_exceptions.md R200). -/
inductive ParserError where
  /-- The footer is outside the set; carries F[24] (41_validator.md R131). -/
  | invalidFooter (b : Byte)
  /-- The flag byte's high nibble is not zero; carries F[23] (R132). -/
  | invalidFlags (b : Byte)
  deriving DecidableEq, Repr

/-- The result of a completed frame (30_encoding.md R64). -/
inductive FrameResult where
  | ok (p : Packet)
  | err (e : ParserError)
  deriving DecidableEq, Repr

/-- The footer check: the byte is one of the closed set of five (30_encoding.md R70; 41_validator.md R131). -/
def footerLegal (b : Byte) : Bool := decide (b ∈ Config.footerSet)

/-- VALIDATE (41_validator.md R130): the footer first, whatever the flag byte is, then the flag byte (R133); none
when the frame passes. -/
def validateFrame (f : Frame) : Option ParserError :=
  match footerLegal (footerByte f), flagsLegal (flagByte f) with
  | false, _ => some (.invalidFooter (footerByte f))
  | true, false => some (.invalidFlags (flagByte f))
  | true, true => none

/-- DECODE (42_codec.md R150, R152). -/
def decodeFrame (f : Frame) : Packet where
  ch := Vector.ofFn fun i : Fin 16 => channelField (payload f) i
  ch17 := flagCh17 (flagByte f)
  ch18 := flagCh18 (flagByte f)
  frameLost := flagFrameLost (flagByte f)
  failsafe := flagFailsafe (flagByte f)

/-- ENCODE (42_codec.md R160): header, the payload bytes of P = E[175:0], flag byte, footer. -/
def encodeFrame (e : EWord) : Frame :=
  Vector.ofFn fun k : Fin 25 =>
    if k.val = 0 then Config.header
    else if k.val ≤ Config.payloadLast then payloadByte (e.extractLsb' 0 176) k.val
    else if k.val = Config.flagIdx then flagByteOf e
    else Config.encFooter

/-- complete (40_synchronizer.md R105): VALIDATE, then DECODE only where it passed. -/
def complete (f : Frame) : FrameResult :=
  match validateFrame f with
  | some e => .err e
  | none => .ok (decodeFrame f)

/-- F[k], zero-extended to the 19 bits on which R151 shifts. -/
def wideByte (f : Frame) (k : Fin 25) : BitVec 19 := f[k].setWidth 19

/-- The OR of a channel's terms, masked to 11 bits (42_codec.md R151). -/
def maskChan (x : BitVec 19) : Chan := (x &&& Config.chMask).setWidth 11

/-- The byte form of the sixteen channels: the formula column of the table of 42_codec.md R151. -/
def channelsByBytes (f : Frame) : Vector Chan 16 := #v[
  maskChan (wideByte f 1 ||| wideByte f 2 <<< 8),
  maskChan (wideByte f 2 >>> 3 ||| wideByte f 3 <<< 5),
  maskChan (wideByte f 3 >>> 6 ||| wideByte f 4 <<< 2 ||| wideByte f 5 <<< 10),
  maskChan (wideByte f 5 >>> 1 ||| wideByte f 6 <<< 7),
  maskChan (wideByte f 6 >>> 4 ||| wideByte f 7 <<< 4),
  maskChan (wideByte f 7 >>> 7 ||| wideByte f 8 <<< 1 ||| wideByte f 9 <<< 9),
  maskChan (wideByte f 9 >>> 2 ||| wideByte f 10 <<< 6),
  maskChan (wideByte f 10 >>> 5 ||| wideByte f 11 <<< 3),
  maskChan (wideByte f 12 ||| wideByte f 13 <<< 8),
  maskChan (wideByte f 13 >>> 3 ||| wideByte f 14 <<< 5),
  maskChan (wideByte f 14 >>> 6 ||| wideByte f 15 <<< 2 ||| wideByte f 16 <<< 10),
  maskChan (wideByte f 16 >>> 1 ||| wideByte f 17 <<< 7),
  maskChan (wideByte f 17 >>> 4 ||| wideByte f 18 <<< 4),
  maskChan (wideByte f 18 >>> 7 ||| wideByte f 19 <<< 1 ||| wideByte f 20 <<< 9),
  maskChan (wideByte f 20 >>> 2 ||| wideByte f 21 <<< 6),
  maskChan (wideByte f 21 >>> 5 ||| wideByte f 22 <<< 3)]

/-- A channel's fragment for one output byte: (ch >> r) & m, shifted left by l (42_codec.md R161). -/
def fragment (c : Chan) (r : Nat) (m : BitVec 16) (l : Nat) : Byte :=
  (((c.setWidth 16 >>> r) &&& m) <<< l).setWidth 8

/-- The flag byte of 42_codec.md R162: ch17 | (ch18 << 1) | (frame_lost << 2) | (failsafe << 3). -/
def flagByteByOr (p : Packet) : Byte :=
  (BitVec.ofBool p.ch17).setWidth 8 ||| (BitVec.ofBool p.ch18).setWidth 8 <<< 1
    ||| (BitVec.ofBool p.frameLost).setWidth 8 <<< 2 ||| (BitVec.ofBool p.failsafe).setWidth 8 <<< 3

/-- The OR form of ENCODE: the table of 42_codec.md R161, with the bytes of R162 around it. -/
def encodeByOr (p : Packet) : Frame := #v[
  Config.header,
  fragment p.ch[0] 0 0xFF 0,
  fragment p.ch[0] 8 0x07 0 ||| fragment p.ch[1] 0 0x1F 3,
  fragment p.ch[1] 5 0x3F 0 ||| fragment p.ch[2] 0 0x03 6,
  fragment p.ch[2] 2 0xFF 0,
  fragment p.ch[2] 10 0x01 0 ||| fragment p.ch[3] 0 0x7F 1,
  fragment p.ch[3] 7 0x0F 0 ||| fragment p.ch[4] 0 0x0F 4,
  fragment p.ch[4] 4 0x7F 0 ||| fragment p.ch[5] 0 0x01 7,
  fragment p.ch[5] 1 0xFF 0,
  fragment p.ch[5] 9 0x03 0 ||| fragment p.ch[6] 0 0x3F 2,
  fragment p.ch[6] 6 0x1F 0 ||| fragment p.ch[7] 0 0x07 5,
  fragment p.ch[7] 3 0xFF 0,
  fragment p.ch[8] 0 0xFF 0,
  fragment p.ch[8] 8 0x07 0 ||| fragment p.ch[9] 0 0x1F 3,
  fragment p.ch[9] 5 0x3F 0 ||| fragment p.ch[10] 0 0x03 6,
  fragment p.ch[10] 2 0xFF 0,
  fragment p.ch[10] 10 0x01 0 ||| fragment p.ch[11] 0 0x7F 1,
  fragment p.ch[11] 7 0x0F 0 ||| fragment p.ch[12] 0 0x0F 4,
  fragment p.ch[12] 4 0x7F 0 ||| fragment p.ch[13] 0 0x01 7,
  fragment p.ch[13] 1 0xFF 0,
  fragment p.ch[13] 9 0x03 0 ||| fragment p.ch[14] 0 0x3F 2,
  fragment p.ch[14] 6 0x1F 0 ||| fragment p.ch[15] 0 0x07 5,
  fragment p.ch[15] 3 0xFF 0,
  flagByteByOr p,
  Config.encFooter]

end Sys2Proof.Machine
end

