-- ==== Sys2Proof/Machine/State.lean ====
section
/-! DEFINITION. The state of SBUS-CORE (10_state.md): S and BUF, the ports' values as fields, and the model's own
fields (INVENTORY.md, State), with the reasons a step can stop and the state after reset. -/

namespace Sys2Proof.Machine

/-- The count n of Reading(n): 1 ≤ n ≤ 24, the bytes placed so far with the header counted as 1
(10_state.md R20, R21; 90_conflicts.md C1). -/
structure Position where
  count : Nat
  one_le : 1 ≤ count
  le_24 : count ≤ 24
  deriving DecidableEq, Repr

/-- The 25 values of S and nothing wider (10_state.md R20; notes/assumptions/10.md). -/
inductive SyncState where
  | awaitingHeader
  | reading (n : Position)
  deriving DecidableEq, Repr

/-- The contents of BUF as far as they are specified: address and byte, addresses strictly rising. An address
without an entry holds an unspecified byte (10_state.md R24; notes/assumptions/3.md). -/
abbrev Memory := List Host.Cell

structure State where
  /-- S (10_state.md R20). -/
  sync : SyncState
  /-- BUF (10_state.md R23; 20_memory.md R40). -/
  buf : Memory
  /-- MODEL: which set of free values BUF's unspecified bytes hold (notes/assumptions/4.md). -/
  staleEpoch : Nat
  /-- The result port as the last SYNC step left it (30_encoding.md R64; notes/assumptions/5.md). -/
  result : Option (Frame × FrameResult)
  /-- E, the word on the ENC port (30_encoding.md R66; notes/assumptions/1.md). -/
  encIn : EWord
  /-- enc_frame, the ENC output (30_encoding.md R66). -/
  encOut : Frame
  /-- MODEL: what the host has still to present (70_reset_and_hazards.md R240; notes/assumptions/2.md). -/
  pending : List PortWord
  deriving DecidableEq, Repr

/-- No fault: the block has no trap and no stuck state (60_exceptions.md R201, R203;
93_implementation_defined.md; notes/assumptions/14.md). -/
inductive Fault where
  deriving DecidableEq, Repr

/-- Why a step has no meaning. -/
inductive Refusal where
  /-- Raised by an arm of exec for an instruction without a meaning; no arm is left that raises it. Safe. -/
  | notModelled (mnemonic : String)
  /-- Raised by step when the host has no transaction left: the run has ended (70_reset_and_hazards.md R240).
  Safe: notes/assumptions/2.md. -/
  | noTransaction
  deriving DecidableEq, Repr

/-- The launch state, the state after reset: AwaitingHeader, BUF any value, no result (10_state.md R32;
70_reset_and_hazards.md R231). E before the host drives it is a DESIGN CHOICE, unsafe: notes/assumptions/6.md. -/
def State.reset : State where
  sync := .awaitingHeader
  buf := []
  staleEpoch := 0
  result := none
  encIn := 0#180
  encOut := encodeFrame 0#180
  pending := []

end Sys2Proof.Machine
end

