-- ==== Sys2Proof/Machine/Ops.lean ====
section
/-! DEFINITION. The named operations over S, BUF and the ports: the primitives of 00_scope.md R8. There is no trap
entry and no return from one (60_exceptions.md R201); an error is a value that State.present places on the port. -/

namespace Sys2Proof.Machine

/-- The cells' addresses rise strictly from lo on and are BUF addresses (20_memory.md R40). -/
def Memory.wfFrom (lo : Nat) : Memory → Bool
  | [] => true
  | (a, _) :: m => decide (lo ≤ a) && decide (a < 25) && Memory.wfFrom (a + 1) m

/-- The canonical form of BUF's contents (notes/assumptions/3.md). -/
def Memory.wf (m : Memory) : Bool := Memory.wfFrom 0 m

/-- The byte listed at an address, none where it is unspecified. -/
def Memory.lookup : Memory → Nat → Option Byte
  | [], _ => none
  | (a, b) :: m, k => if a = k then some b else Memory.lookup m k

/-- The contents with one byte written, in canonical form. -/
def Memory.store : Memory → Nat → Byte → Memory
  | [], k, v => [(k, v)]
  | (a, b) :: m, k, v =>
    if k < a then (k, v) :: (a, b) :: m
    else if k = a then (k, v) :: m
    else (a, b) :: Memory.store m k v

/-- BUF[a], MemRead(a, 1) of 00_scope.md R8: the byte written, else a free value (10_state.md R24, R32). -/
def State.bufByte (s : State) (a : Fin 25) : Byte :=
  (Memory.lookup s.buf a.val).getD (Config.staleByte s.staleEpoch a.val)

/-- BUF[a] <- b, MemWrite(a, 1, b) of 00_scope.md R8. -/
def State.writeBuf (s : State) (a : Fin 25) (b : Byte) : State :=
  { s with buf := Memory.store s.buf a.val b }

/-- BUF[0..24] <- any value (40_synchronizer.md R110): no byte is specified any more. -/
def State.forgetBuf (s : State) : State :=
  { s with buf := [], staleEpoch := s.staleEpoch + 1 }

/-- S <- v (00_scope.md R8). -/
def State.setSync (s : State) (v : SyncState) : State := { s with sync := v }

/-- The output ports of a SYNC step: the result, or none where the step does not emit (30_encoding.md R64;
10_state.md R31), and beside it enc_frame = ENCODE(E), as in every step (30_encoding.md R66). -/
def State.present (s : State) (r : Option (Frame × FrameResult)) : State :=
  { s with result := r, encOut := encodeFrame s.encIn }

/-- E <- e on the ENC port, and enc_frame = ENCODE(E) with it (30_encoding.md R66; notes/assumptions/1.md). -/
def State.driveEnc (s : State) (e : EWord) : State :=
  { s with encIn := e, encOut := encodeFrame e }

/-- The BUF address at which Reading(n) stores: n (10_state.md R21). -/
def Position.addr (n : Position) : Fin 25 := ⟨n.count, Nat.lt_succ_of_le n.le_24⟩

/-- n + 1, for n ≤ 23 (40_synchronizer.md R103). -/
def Position.next (n : Position) (h : n.count < 24) : Position := ⟨n.count + 1, Nat.le_add_left 1 n.count, h⟩

/-- Reading(1), the state after a header (40_synchronizer.md R102). -/
def Position.first : Position := ⟨1, by decide, by decide⟩

/-- Reading(24), the state before the completing byte (40_synchronizer.md R104). -/
def Position.last : Position := ⟨24, by decide, by decide⟩

/-- The 5-bit register cnt: 0 for AwaitingHeader, n for Reading(n) (10_state.md R22). -/
def SyncState.cnt : SyncState → BitVec 5
  | .awaitingHeader => 0#5
  | .reading n => BitVec.ofNat 5 n.count

/-- The state a value of cnt encodes; 25 to 31 encode none (10_state.md R22; notes/assumptions/10.md). -/
def SyncState.ofCnt (c : BitVec 5) : Option SyncState :=
  if h0 : c.toNat = 0 then some .awaitingHeader
  else if h24 : c.toNat ≤ 24 then some (.reading ⟨c.toNat, Nat.one_le_iff_ne_zero.mpr h0, h24⟩)
  else none

/-- The frame F = (BUF[0], .., BUF[23], b) of the completing step (40_synchronizer.md R100, R104; 20_memory.md R43). -/
def State.frameWith (s : State) (b : Byte) : Frame :=
  Vector.ofFn fun k : Fin 25 => if k.val = Config.footerIdx then b else s.bufByte k

/-- What the host presents next, decoded, and the state without it; none at the end of the run
(70_reset_and_hazards.md R240; 40_synchronizer.md R100). -/
def fetch (s : State) : Option (Instr × State) :=
  match s.pending with
  | [] => none
  | w :: ws => some (decodeWord w, { s with pending := ws })

end Sys2Proof.Machine
end

