-- ==== Sys2Proof/Machine/Encoder.lean ====
section
/-! DEFINITION. ENC: the meaning of ENCODE (42_codec.md R160; 30_encoding.md R66). -/

namespace Sys2Proof.Machine

/-- ENCODE: the packet's E on the ENC port and its frame on enc_frame; S, BUF and the result bundle are not touched
(40_synchronizer.md R100; notes/assumptions/1.md). -/
def execEncode (p : Packet) (s : State) : Host.Outcome State Fault Refusal := .next (s.driveEnc (packE p))

end Sys2Proof.Machine
end

