-- ==== Sys2Proof/Machine/Sync.lean ====
section
/-! DEFINITION. SYNC: the meanings of FEED, IDLE, RESYNC, RESYNC_FEED and RESET (40_synchronizer.md). -/

namespace Sys2Proof.Machine

/-- feed(b), the three cases of 40_synchronizer.md R100 (R102, R103, R104). -/
def feedByte (b : Byte) (s : State) : State :=
  match s.sync with
  | .awaitingHeader =>
    if b = Config.header then ((s.writeBuf 0 b).setSync (.reading Position.first)).present none
    else s.present none
  | .reading n =>
    if h : n.count < 24 then ((s.writeBuf n.addr b).setSync (.reading (n.next h))).present none
    else
      let f := s.frameWith b
      ((s.writeBuf 24 b).setSync .awaitingHeader).present (some (f, complete f))

/-- FEED (40_synchronizer.md R101). -/
def execFeed (b : Byte) (s : State) : Host.Outcome State Fault Refusal := .next (feedByte b s)

/-- IDLE (R107): S and BUF keep their values, no result. -/
def execIdle (s : State) : Host.Outcome State Fault Refusal := .next (s.present none)

/-- RESYNC (R108): S <- AwaitingHeader, BUF unchanged, no result. -/
def execResync (s : State) : Host.Outcome State Fault Refusal :=
  .next ((s.setSync .awaitingHeader).present none)

/-- RESYNC_FEED (R109): RESYNC's S <- AwaitingHeader, then feed(b). -/
def execResyncFeed (b : Byte) (s : State) : Host.Outcome State Fault Refusal :=
  .next (feedByte b (s.setSync .awaitingHeader))

/-- RESET (R110): S <- AwaitingHeader, BUF any value, no result; the byte is not consumed. -/
def execReset (s : State) : Host.Outcome State Fault Refusal :=
  .next ((s.forgetBuf.setSync .awaitingHeader).present none)

end Sys2Proof.Machine
end

