-- ==== Sys2Proof/Machine/Dispatch.lean ====
section
/-! DEFINITION. One arm per operation. -/

namespace Sys2Proof.Machine

def exec (i : Instr) (s : State) : Host.Outcome State Fault Refusal :=
  match i with
  | .reset => Sys2Proof.Machine.execReset s
  | .idle => Sys2Proof.Machine.execIdle s
  | .feed b => Sys2Proof.Machine.execFeed b s
  | .resync => Sys2Proof.Machine.execResync s
  | .resyncFeed b => Sys2Proof.Machine.execResyncFeed b s
  | .encode p => Sys2Proof.Machine.execEncode p s

end Sys2Proof.Machine
end

