-- ==== Sys2Proof/Machine/Step.lean ====
section
/-! DEFINITION. One step: the next transaction the host presents, decoded and executed (00_scope.md R10;
40_synchronizer.md R100). -/

namespace Sys2Proof.Machine

/-- The step function. With no transaction left the run has ended (70_reset_and_hazards.md R240). -/
def step (s : State) : Host.Outcome State Fault Refusal :=
  match fetch s with
  | none => .refused .noTransaction
  | some (i, s') => exec i s'

/-- The state in which the host presents one raw word next (notes/assumptions/7.md and 8.md). -/
def State.withFetchWord (s : State) (nbits w : Nat) : State :=
  match wordOnPort (portOfWidth nbits) w with
  | .ok pw => { s with pending := pw :: s.pending }
  | .error _ => { s with pending := [] }

end Sys2Proof.Machine
end

