-- ==== Sys2Proof/Machine/Run.lean ====
section
/-! DEFINITION. Runs and their observation (70_reset_and_hazards.md R240), the pseudo-instructions FEEDS and FEEDFRAME
(30_encoding.md R74; 40_synchronizer.md R111), and platforms of several instances (00_scope.md R6). -/

namespace Sys2Proof.Machine

/-- One emitted result: the step it came in, its raw frame, the result (70_reset_and_hazards.md R240). -/
structure Emission where
  index : Nat
  raw : Frame
  result : FrameResult
  deriving DecidableEq, Repr

/-- The host presents one more word, before all others. -/
def State.offer (s : State) (w : PortWord) : State := { s with pending := w :: s.pending }

/-- The next step's number: a T word takes one, an E word takes none (notes/assumptions/17.md). -/
def nextIndex (k : Nat) : PortWord → Nat
  | .t _ => k + 1
  | .e _ => k

/-- What step k presented, read from the state after it: a result only at a T word (notes/assumptions/5.md). -/
def emission (k : Nat) (w : PortWord) (t : State) : List Emission :=
  match w, t.result with
  | .t _, some (f, r) => [⟨k, f, r⟩]
  | .t _, none => []
  | .e _, _ => []

/-- A run: the words presented in order, from step number k on. The emitted results and the last state. -/
def run (k : Nat) : List PortWord → State → Option (List Emission × State)
  | [], s => some ([], s)
  | w :: ws, s =>
    match step (s.offer w) with
    | .next t => (run (nextIndex k w) ws t).map fun r => (emission k w t ++ r.1, r.2)
    | .fault _ => none
    | .refused _ => none

/-- The observation of a run: its emissions and the final S (70_reset_and_hazards.md R240). -/
def observe (ws : List PortWord) (s : State) : Option (List Emission × SyncState) :=
  (run 1 ws s).map fun r => (r.1, r.2.sync)

/-- FEEDS (30_encoding.md R74): one FEED for each byte, in order. -/
def feeds (bs : List Byte) : List PortWord := bs.map fun b => encode (.feed b)

/-- FEEDFRAME (30_encoding.md R74): FEEDS of the bytes of ENCODE. -/
def feedFrame (p : Packet) : List PortWord := feeds (encodeFrame (packE p)).toList

/-- One or more instances, each with a state of its own (00_scope.md R6; notes/assumptions/13.md). -/
structure Platform where
  first : State
  others : List State
  deriving DecidableEq, Repr

/-- INSTANCES, at least 1 (00_scope.md R6). -/
def Platform.count (p : Platform) : Nat := p.others.length + 1

/-- The state of instance k. -/
def Platform.inst (p : Platform) (k : Nat) : Option State := (p.first :: p.others)[k]?

/-- Instance k with a new state. -/
def Platform.setInst (p : Platform) (k : Nat) (s : State) : Platform :=
  match k with
  | 0 => { p with first := s }
  | k + 1 => { p with others := p.others.set k s }

/-- A step of instance k; none where the platform has no instance k. -/
def Platform.stepAt (p : Platform) (k : Nat) : Option (Host.Outcome Platform Fault Refusal) :=
  (p.inst k).map fun s =>
    match step s with
    | .next t => .next (p.setInst k t)
    | .fault r => .fault r
    | .refused r => .refused r

end Sys2Proof.Machine
end

