-- ==== Sys2Proof/Machine/Assembler.lean ====
section
/-! DEFINITION. The assembler syntax (30_encoding.md R73) and the expansion of its pseudo-instructions (R74). It takes
part in no step of the machine. Conventions R73 leaves open: notes/assumptions/16.md. -/

namespace Sys2Proof.Machine

/-- The packet of an ENCODE line: channels, and the flag nibble with bit 0 ch17 to bit 3 failsafe (R73). -/
def packetOf (ch : List Nat) (fl : Nat) : Packet where
  ch := Vector.ofFn fun i : Fin 16 => BitVec.ofNat 11 (ch.getD i.val 0)
  ch17 := fl.testBit 0
  ch18 := fl.testBit 1
  frameLost := fl.testBit 2
  failsafe := fl.testBit 3

/-- The operations of a line, in order; pseudo-instructions expand (R74). -/
def Line.instrs : Line → List Instr
  | .reset => [.reset]
  | .idle => [.idle]
  | .feed b => [.feed (BitVec.ofNat 8 b)]
  | .resync => [.resync]
  | .resyncFeed b => [.resyncFeed (BitVec.ofNat 8 b)]
  | .encode ch fl => [.encode (packetOf ch fl)]
  | .feeds bs => bs.map fun b => .feed (BitVec.ofNat 8 b)
  | .feedframe ch fl => (encodeFrame (packE (packetOf ch fl))).toList.map .feed

/-- The port words of a line; none for a line that is not well formed (the refusal: notes/assumptions/16.md). -/
def assembleLine (l : Line) : Option (List PortWord) :=
  if l.wf then some ((Line.instrs l).map encode) else none

/-- The fields of a text between separators, the empty ones included. -/
def splitFields (sep : Char) : List Char → List (List Char)
  | [] => [[]]
  | c :: cs => if c = sep then [] :: splitFields sep cs else (splitFields sep cs).modifyHead (c :: ·)

/-- The words of a line: repeated, leading and trailing spaces separate nothing (DESIGN CHOICE, safe:
notes/assumptions/16.md). -/
def splitWords (cs : List Char) : List (List Char) := (splitFields ' ' cs).filter (· ≠ [])

/-- The hexadecimal digits of R73 in the order of their values. -/
def hexDigits : List Char := "0123456789ABCDEF".toList

/-- A digit's value, its place among the sixteen; a small letter stands for its capital (DESIGN CHOICE, safe:
notes/assumptions/16.md). -/
def digitVal (c : Char) : Option Nat := hexDigits.idxOf? c.toUpper

/-- A decimal number of one digit or more; a text without a digit is none. -/
def parseDec (cs : List Char) : Option Nat :=
  if cs = [] then none
  else (cs.mapM digitVal).bind fun ds => if ds.all (· < 10) then some (ds.foldl (fun n d => 10 * n + d) 0) else none

/-- A byte, 0F or 0x0F (R73). -/
def parseByte : List Char → Option Nat
  | ['0', 'x', h, l] => (digitVal h).bind fun a => (digitVal l).map fun b => 16 * a + b
  | [h, l] => (digitVal h).bind fun a => (digitVal l).map fun b => 16 * a + b
  | _ => none

/-- The operand ch=[c0,...,c15] (R73). A list with an empty field (a doubled, leading or trailing comma, as in
ch=[0,,1]) or with anything but decimal digits in a field is refused: R73 does not say what ill-formed text does, and
the refusal is the model's choice (DESIGN CHOICE, safe: notes/assumptions/16.md). -/
def parseChannels (w : List Char) : Option (List Nat) :=
  match w with
  | 'c' :: 'h' :: '=' :: '[' :: cs =>
    match cs.reverse with
    | ']' :: r => (splitFields ',' r.reverse).mapM parseDec
    | _ => none
  | _ => none

/-- The operand fl=h. -/
def parseFlags : List Char → Option Nat
  | ['f', 'l', '=', h] => digitVal h
  | _ => none

/-- The words of a line as a line of the syntax; a line without words encodes nothing. -/
def parseWords : List (List Char) → Option (List Line)
  | [] => some []
  | m :: ws =>
    if m = "RESET".toList then (if ws = [] then some [.reset] else none)
    else if m = "IDLE".toList then (if ws = [] then some [.idle] else none)
    else if m = "RESYNC".toList then (if ws = [] then some [.resync] else none)
    else if m = "FEEDS".toList then (ws.mapM parseByte).map fun bs => [.feeds bs]
    else match ws with
      | [w] =>
        if m = "FEED".toList then (parseByte w).map fun b => [.feed b]
        else if m = "RESYNC_FEED".toList then (parseByte w).map fun b => [.resyncFeed b]
        else none
      | [c, f] =>
        if m = "ENCODE".toList then (parseChannels c).bind fun ch => (parseFlags f).map fun fl => [.encode ch fl]
        else if m = "FEEDFRAME".toList then
          (parseChannels c).bind fun ch => (parseFlags f).map fun fl => [.feedframe ch fl]
        else none
      | _ => none

/-- A line of text; a semicolon starts a comment (R73). None for an ill-formed line (notes/assumptions/16.md). -/
def parseLine (s : String) : Option (List Line) :=
  parseWords (splitWords (s.toList.takeWhile fun c => c ≠ ';'))

/-- The port words of a text, one line each; one ill-formed line refuses the whole text (DESIGN CHOICE, safe:
notes/assumptions/16.md). -/
def assemble (text : List String) : Option (List PortWord) :=
  (text.mapM fun s => (parseLine s).bind fun ls => (ls.mapM assembleLine).map List.flatten).map List.flatten

end Sys2Proof.Machine
end

