-- ==== Sys2Proof/Machine/Ports.lean ====
section
/-! DEFINITION. The output ports as wires: the result bundle with its codes (30_encoding.md R63, R65) and the
flattened frames (R66). A don't-care field is none (notes/assumptions/12.md). -/

namespace Sys2Proof.Machine

/-- The 200-bit bus of a frame: byte k at bits 8*k+7 : 8*k (30_encoding.md R66). -/
def flattenFrame (f : Frame) : BitVec 200 :=
  f[24] ++ f[23] ++ f[22] ++ f[21] ++ f[20] ++ f[19] ++ f[18] ++ f[17] ++ f[16] ++ f[15] ++ f[14] ++ f[13]
    ++ f[12] ++ f[11] ++ f[10] ++ f[9] ++ f[8] ++ f[7] ++ f[6] ++ f[5] ++ f[4] ++ f[3] ++ f[2] ++ f[1] ++ f[0]

/-- res_err_code: 0 for InvalidFooter, 1 for InvalidFlags (30_encoding.md R65). -/
def ParserError.code : ParserError → BitVec 1
  | .invalidFooter _ => 0#1
  | .invalidFlags _ => 1#1

/-- res_err_byte: the byte the error carries (30_encoding.md R65). -/
def ParserError.byte : ParserError → Byte
  | .invalidFooter b => b
  | .invalidFlags b => b

/-- The result bundle (30_encoding.md R63). A field that is a don't care in the case at hand is none. -/
structure Bundle where
  resValid : Bool
  resOk : Option Bool
  resErrCode : Option (BitVec 1)
  resErrByte : Option Byte
  /-- res_ch[i] and the four flag wires. -/
  resPacket : Option Packet
  /-- res_raw, flattened. -/
  resRaw : Option (BitVec 200)
  deriving DecidableEq, Repr

/-- The bundle of a step's result: the table of 30_encoding.md R63. -/
def bundleOf : Option (Frame × FrameResult) → Bundle
  | none => ⟨false, none, none, none, none, none⟩
  | some (f, .ok p) => ⟨true, some true, none, none, some p, some (flattenFrame f)⟩
  | some (f, .err e) => ⟨true, some false, some e.code, some e.byte, none, some (flattenFrame f)⟩

/-- The result port of the last SYNC step. -/
def State.bundle (s : State) : Bundle := bundleOf s.result

/-- The enc_frame bus (30_encoding.md R66). -/
def State.encFrameBus (s : State) : BitVec 200 := flattenFrame s.encOut

end Sys2Proof.Machine
end

