-- ==== Sys2Proof/Safety.lean ====
section
/-! DEFINITION. What claims are stated in: the invariant of the machine, the states that the block cannot tell apart,
and small statement helpers. -/

namespace Sys2Proof.Safety

open Sys2Proof.Machine

/-- BUF[0..n-1] holds bytes of the current frame and BUF[0] is the header whenever S = Reading(n)
(10_state.md R24; 41_validator.md R134). -/
def HeldBytes (s : State) : Prop :=
  ∀ n : Position, s.sync = .reading n →
    Memory.lookup s.buf 0 = some Config.header ∧
      ∀ a : Nat, a < n.count → (Memory.lookup s.buf a).isSome = true

/-- The result port presents nothing, or a frame that starts with the header together with complete of it
(40_synchronizer.md R104, R105). -/
def PortHonest (s : State) : Prop :=
  ∀ f r, s.result = some (f, r) → f[0] = Config.header ∧ r = complete f

/-- The invariant: BUF in canonical form, the held bytes written, the result port honest, enc_frame = ENCODE(E). -/
structure MachineInv (s : State) : Prop where
  bufForm : Memory.wf s.buf = true
  held : HeldBytes s
  port : PortHonest s
  enc : s.encOut = encodeFrame s.encIn

/-- The parts of two states that SYNC can tell apart: S, and the meaningful bytes BUF[0..n-1]
(10_state.md R24, R25). E, stale bytes, old outputs and the host's list are free to differ. -/
def SameMeaning (s t : State) : Prop :=
  s.sync = t.sync ∧ ∀ n : Position, s.sync = .reading n → ∀ a : Fin 25, a.val < n.count → s.bufByte a = t.bufByte a

/-- Everything but S and the result port is as it was: BUF byte by byte, the epoch, E and the host's list. -/
def KeepsBuf (s t : State) : Prop :=
  (∀ a : Fin 25, t.bufByte a = s.bufByte a) ∧ t.staleEpoch = s.staleEpoch ∧ t.encIn = s.encIn ∧ t.pending = s.pending

/-- BUF[a] holds b, every other byte of BUF is as it was, and so are the epoch, E and the host's list. -/
def WritesOnly (s t : State) (a : Fin 25) (b : Byte) : Prop :=
  t.bufByte a = b ∧ (∀ c : Fin 25, c ≠ a → t.bufByte c = s.bufByte c) ∧
    t.staleEpoch = s.staleEpoch ∧ t.encIn = s.encIn ∧ t.pending = s.pending

end Sys2Proof.Safety
end

