-- ==== Sys2Proof/Certificates/Slice0/Obligations.lean ====
section
/-! DEFINITION. The statements for the provers. Rules are those of spec/; a clause that rests on the model's own choice
names its log entry. -/

open Sys2Proof Sys2Proof.Machine Sys2Proof.Safety

/-! ### Port words and decoding -/

/-- Decoding an operation's canonical port word gives it back, with every operand at every value
(30_encoding.md R61, R66, R73). -/
def Obligations.DecodeOfEncodeIsSameInstr : Prop :=
  ∀ i : Instr, i.wf = true → decodeWord (encode i) = i

/-- E[11*i+10 : 11*i] is channel i and E[179:176] the flags, and nothing else is in E: packing what was unpacked gives
the same 180 bits (30_encoding.md R66). -/
def Obligations.PackOfUnpackIsSameWord : Prop :=
  ∀ e : EWord, packE (unpackE e) = e

/-- A T word lies in a row of spec/opcode_table.json exactly if the decoder gives that row's operation, so every word
lies in exactly one row (30_encoding.md R61, R71). -/
def Obligations.TableRowIffDecodedMnemonic : Prop :=
  ∀ w : TWord, ∀ r ∈ opRows, (r.holds w = true ↔ r.mnemonic = (decodeT w).mnemonic)

/-- 30_encoding.md R62: fields without effect have none, a decoder accepts any value in them, and the canonical words
hold 0 there. -/
def Obligations.IgnoredFieldsHaveNoEffect : Prop :=
  (∀ w v : TWord, ∀ s : State, tRst w = true → tRst v = true → exec (decodeT w) s = exec (decodeT v) s) ∧
  (∀ w v : TWord, ∀ s : State, tRst w = false → tInValid w = false → tRst v = false → tInValid v = false →
    tResync w = tResync v → exec (decodeT w) s = exec (decodeT v) s) ∧
  (∀ i : Instr, ∀ w : TWord, encode i = .t w →
    (tInValid w = false ∨ tRst w = true → tInData w = 0#8) ∧
    (tRst w = true → tResync w = false ∧ tInValid w = false))

/-- Words written out from the bit tables of 30_encoding.md R60 and R66, with the operation each stands for
(examples of 95_test_vectors.md V9, V10 and V14). -/
def Obligations.HandWrittenWordsDecode : Prop :=
  decodeT 0b10000000000#11 = .reset ∧ decodeT 0b11111111111#11 = .reset ∧
  decodeT 0b00011111111#11 = .idle ∧ decodeT 0b00110101011#11 = .feed 0xAB#8 ∧
  decodeT 0b01000000000#11 = .resync ∧ decodeT 0b01100001111#11 = .resyncFeed 0x0F#8 ∧
  decodeE (2047#180 <<< 55 ||| 1#180 <<< 177) =
    .encode ⟨#v[0, 0, 0, 0, 0, 2047, 0, 0, 0, 0, 0, 0, 0, 0, 0, 0], false, true, false, false⟩

/-- A raw number decodes on a port if it fits the port's width, and is rejected by name if not (the named rejection is
the model's: notes/assumptions/7.md). -/
def Obligations.RawNumberDecodesIffItFits : Prop :=
  ∀ n : Nat,
    (n < 2 ^ 11 → decodeBits .t n = .ok (decodeT (BitVec.ofNat 11 n))) ∧
    (2 ^ 11 ≤ n → decodeBits .t n = .error .tWordTooWide) ∧
    (n < 2 ^ 180 → decodeBits .e n = .ok (decodeE (BitVec.ofNat 180 n))) ∧
    (2 ^ 180 ≤ n → decodeBits .e n = .error .eWordTooWide)

/-! ### The step -/

/-- A step takes the next word the host presents and executes the operation it selects; with no word left the run has
ended (40_synchronizer.md R100; 70_reset_and_hazards.md R240; the host's list is the model's: notes/assumptions/2.md). -/
def Obligations.StepRunsTheDecodedOperation : Prop :=
  (∀ s w ws, s.pending = w :: ws → step s = exec (decodeWord w) { s with pending := ws }) ∧
  (∀ s, s.pending = [] → step s = .refused .noTransaction)

/-- The step function of 40_synchronizer.md R100, from the bits of T: rst before everything, then resync, then the byte
processed in the S that is left (30_encoding.md R61). -/
def Obligations.ResetThenResyncThenByte : Prop :=
  ∀ (w : TWord) (s : State), ∃ t, exec (decodeT w) s = .next t ∧
    (w.getLsbD 10 = true → t.sync = .awaitingHeader ∧ t.result = none) ∧
    (w.getLsbD 10 = false → w.getLsbD 8 = false →
      t.sync = (if w.getLsbD 9 = true then .awaitingHeader else s.sync) ∧ t.result = none ∧ KeepsBuf s t) ∧
    (w.getLsbD 10 = false → w.getLsbD 8 = true →
      exec (.feed (w.extractLsb' 0 8)) (if w.getLsbD 9 = true then { s with sync := .awaitingHeader } else s) = .next t)

/-- 60_exceptions.md R203: every word completes in every state, an error is presented only at a completion and is one of
the two, and ENCODE completes without presenting one. -/
def Obligations.FeedingNeverFails : Prop :=
  (∀ (w : TWord) (s : State), ∃ t, exec (decodeT w) s = .next t ∧
    ∀ f e, t.result = some (f, .err e) →
      (∃ n : Position, s.sync = .reading n ∧ n.count = 24) ∧
      (e = .invalidFooter f[24] ∨ e = .invalidFlags f[23])) ∧
  (∀ (p : Packet) (s : State), ∃ t, exec (.encode p) s = .next t ∧ t.result = s.result)

/-! ### The operations of SYNC -/

/-- 40_synchronizer.md R102, with what it leaves unchanged. -/
def Obligations.FeedAwaitingHeader : Prop :=
  ∀ (s : State) (b : Byte), s.sync = .awaitingHeader →
    ∃ t, exec (.feed b) s = .next t ∧ t.result = none ∧ t.encOut = encodeFrame s.encIn ∧
      (b = 0x0F#8 → (∃ m : Position, t.sync = .reading m ∧ m.count = 1) ∧ WritesOnly s t 0 b) ∧
      (b ≠ 0x0F#8 → t.sync = .awaitingHeader ∧ KeepsBuf s t)

/-- 40_synchronizer.md R103, with what it leaves unchanged; the byte's value is not examined. -/
def Obligations.FeedInsideFrame : Prop :=
  ∀ (s : State) (b : Byte) (n : Position), s.sync = .reading n → n.count ≤ 23 →
    ∃ t, exec (.feed b) s = .next t ∧ t.result = none ∧ t.encOut = encodeFrame s.encIn ∧
      (∃ m : Position, t.sync = .reading m ∧ m.count = n.count + 1) ∧ WritesOnly s t n.addr b

/-- 40_synchronizer.md R104, with what it leaves unchanged: the frame is BUF[0..23] and the byte, the result is
complete of it, and the next byte is processed in AwaitingHeader. -/
def Obligations.FeedCompletesFrame : Prop :=
  ∀ (s : State) (b : Byte) (n : Position), s.sync = .reading n → n.count = 24 →
    ∃ t f, exec (.feed b) s = .next t ∧ t.sync = .awaitingHeader ∧ t.encOut = encodeFrame s.encIn ∧
      WritesOnly s t 24 b ∧ t.result = some (f, complete f) ∧
      f[24] = b ∧ ∀ k : Fin 24, f[k] = s.bufByte ⟨k.val, by omega⟩

/-- 40_synchronizer.md R105. -/
def Obligations.CompleteValidatesThenDecodes : Prop :=
  ∀ f : Frame,
    (∀ e, validateFrame f = some e → complete f = .err e) ∧
    (validateFrame f = none → complete f = .ok (decodeFrame f))

/-- 40_synchronizer.md R106. -/
def Obligations.ResultOnlyInCompletingStep : Prop :=
  ∀ (w : TWord) (s t : State), exec (decodeT w) s = .next t →
    (t.result.isSome = true ↔
      (∃ n : Position, s.sync = .reading n ∧ n.count = 24) ∧
        tInValid w = true ∧ tRst w = false ∧ tResync w = false)

/-- IDLE completes and changes nothing, whatever in_data holds (40_synchronizer.md R107). -/
def Obligations.IdleChangesNothing : Prop :=
  (∀ d : Byte, decodeT (d.setWidth 11) = .idle) ∧
  ∀ s : State, ∃ t, exec .idle s = .next t ∧ t.sync = s.sync ∧ KeepsBuf s t ∧ t.result = none ∧
    t.encOut = encodeFrame s.encIn

/-- Any number of IDLE steps leaves a partial frame intact and emits nothing (40_synchronizer.md R107, R114). -/
def Obligations.AnyNumberOfIdleStepsKeepsFrame : Prop :=
  ∀ (j k : Nat) (s : State), ∃ t, run k (List.replicate j (.t 0x000#11)) s = some ([], t) ∧
    t.sync = s.sync ∧ KeepsBuf s t

/-- 40_synchronizer.md R108, with its encoding. -/
def Obligations.ResyncForcesAwaitingHeader : Prop :=
  (∀ d : Byte, decodeT (0x200#11 ||| d.setWidth 11) = .resync) ∧
  ∀ s : State, ∃ t, exec .resync s = .next t ∧ t.sync = .awaitingHeader ∧ KeepsBuf s t ∧ t.result = none ∧
    t.encOut = encodeFrame s.encIn

/-- 40_synchronizer.md R109, with its encoding: from every state. -/
def Obligations.ResyncFeedDropsPartialFrame : Prop :=
  ∀ (s : State) (b : Byte), decodeT (0x300#11 ||| b.setWidth 11) = .resyncFeed b ∧
    ∃ t, exec (.resyncFeed b) s = .next t ∧ t.result = none ∧
    t.encOut = encodeFrame s.encIn ∧
    (b = 0x0F#8 → (∃ m : Position, t.sync = .reading m ∧ m.count = 1) ∧ WritesOnly s t 0 b) ∧
    (b ≠ 0x0F#8 → t.sync = .awaitingHeader ∧ KeepsBuf s t)

/-- RESYNC_FEED is RESYNC and then FEED of the same byte, in one step (40_synchronizer.md R109; 20_memory.md R51). -/
def Obligations.ResyncFeedIsResyncThenFeed : Prop :=
  ∀ (s t : State) (b : Byte), exec .resync s = .next t → exec (.resyncFeed b) s = exec (.feed b) t

/-- 40_synchronizer.md R110: any T with rst set. BUF afterwards is any value, so nothing is said of it here. -/
def Obligations.ResetIgnoresEverythingElse : Prop :=
  ∀ (w : TWord) (s : State), tRst w = true → ∃ t, exec (decodeT w) s = .next t ∧ exec .reset s = .next t ∧
    t.sync = .awaitingHeader ∧ t.result = none ∧ t.encIn = s.encIn ∧ t.encOut = encodeFrame s.encIn ∧
    t.pending = s.pending

/-- BUF after RESET, in the model's form of "any value": each byte is a free value of a new epoch, whatever it was
(10_state.md R32; the form is the model's: notes/assumptions/3.md, 4.md). -/
def Obligations.ResetLeavesBufUnspecified : Prop :=
  ∀ s t : State, exec .reset s = .next t →
    t.staleEpoch = s.staleEpoch + 1 ∧ ∀ a : Fin 25, t.bufByte a = Config.staleByte t.staleEpoch a.val

/-- RESYNC_FEED and FEED write at most the one byte BUF[n], or BUF[0] with the header; IDLE and RESYNC write none
(20_memory.md R42). -/
def Obligations.AtMostOneBufByteWritten : Prop :=
  ∀ (w : TWord) (s t : State) (a : Fin 25), tRst w = false → exec (decodeT w) s = .next t →
    t.bufByte a ≠ s.bufByte a →
    tInValid w = true ∧ t.bufByte a = tInData w ∧
      ((∃ n, s.sync = .reading n ∧ tResync w = false ∧ a = n.addr) ∨
       (a = 0 ∧ tInData w = 0x0F#8 ∧ (s.sync = .awaitingHeader ∨ tResync w = true)))

/-- Every move out of Reading(n): without a byte S stays, a byte takes it to Reading(n+1), or from Reading(24) to
AwaitingHeader; a resync takes it to Reading(1) with the header in the same step and to AwaitingHeader otherwise; a
reset takes it to AwaitingHeader (10_state.md R21, R27; 40_synchronizer.md R103, R104, R108, R109, R110). -/
def Obligations.PositionAdvancesByOne : Prop :=
  ∀ (w : TWord) (s t : State) (n : Position), s.sync = .reading n → exec (decodeT w) s = .next t →
    (tRst w = true → t.sync = .awaitingHeader) ∧
    (tRst w = false → tResync w = true →
      (tInValid w = true → tInData w = 0x0F#8 → ∃ m : Position, t.sync = .reading m ∧ m.count = 1) ∧
      ((tInValid w = true → tInData w ≠ 0x0F#8) → t.sync = .awaitingHeader)) ∧
    (tRst w = false → tResync w = false →
      (tInValid w = false → t.sync = .reading n) ∧
      (tInValid w = true → n.count < 24 → ∃ m : Position, t.sync = .reading m ∧ m.count = n.count + 1) ∧
      (tInValid w = true → n.count = 24 → t.sync = .awaitingHeader))

/-- A result is present for one step: the SYNC step after a completing one presents none
(70_reset_and_hazards.md R233; 60_exceptions.md R205). -/
def Obligations.ResultIsPresentForOneStep : Prop :=
  ∀ (w v : TWord) (s t u : State), exec (decodeT w) s = .next t → t.result.isSome = true →
    exec (decodeT v) t = .next u → u.result = none

/-- 60_exceptions.md R202: after an error S is AwaitingHeader, and whatever comes later is processed as from any other
AwaitingHeader state, such as the launch state. -/
def Obligations.ErrorLeavesNoTrace : Prop :=
  ∀ (s t u : State) (b : Byte) (f : Frame) (e : ParserError) (ws : List PortWord),
    exec (.feed b) s = .next t → t.result = some (f, .err e) → u.sync = .awaitingHeader →
    t.sync = .awaitingHeader ∧ (observe ws t).isSome = true ∧ observe ws t = observe ws u

/-! ### Reset and the invariant -/

/-- 10_state.md R32: the state after reset. -/
def Obligations.StateAfterReset : Prop :=
  State.reset.sync = .awaitingHeader ∧ State.reset.sync.cnt = 0#5 ∧ State.reset.result = none ∧
    State.reset.encOut = encodeFrame State.reset.encIn ∧ State.reset.bundle.resValid = false

/-- The state after reset meets the invariant. -/
def Obligations.InvariantAtReset : Prop := MachineInv State.reset

/-- Every step keeps the invariant: BUF in canonical form, BUF[0..n-1] written with the header at 0 in Reading(n)
(10_state.md R24), a presented frame starting with the header together with complete of it (40_synchronizer.md R104,
R105), and enc_frame = ENCODE(E) (30_encoding.md R66). -/
def Obligations.StepKeepsInvariant : Prop :=
  ∀ s t : State, MachineInv s → step s = .next t → MachineInv t

/-- cnt encodes the 25 states, each by one code: 0 AwaitingHeader and n Reading(n) (10_state.md R20, R22). That the
codes 25 to 31 encode no state is the model's: R22 leaves those codes unspecified (notes/assumptions/10.md). -/
def Obligations.CntEncodesTheStates : Prop :=
  (∀ S : SyncState, SyncState.ofCnt S.cnt = some S ∧ S.cnt.toNat ≤ 24) ∧
  (∀ c : BitVec 5, 25 ≤ c.toNat → SyncState.ofCnt c = none) ∧
  (∀ c : BitVec 5, ∀ S, SyncState.ofCnt c = some S → S.cnt = c) ∧
  SyncState.cnt .awaitingHeader = 0#5 ∧ ∀ n : Position, (SyncState.cnt (.reading n)).toNat = n.count

/-! ### Runs -/

/-- 40_synchronizer.md R111: a byte string fed in two parts gives the same results and the same final state. -/
def Obligations.FeedsMayBeSplitAnywhere : Prop :=
  ∀ (k : Nat) (b c : List Byte) (s : State), ∃ e t d u,
    run k (feeds b) s = some (e, t) ∧ run (k + b.length) (feeds c) t = some (d, u) ∧
      run k (feeds (b ++ c)) s = some (e ++ d, u)

/-- 20_memory.md R45: the k-th byte fed after an accepted header goes to BUF[k]. -/
def Obligations.BytesLandInFeedOrder : Prop :=
  ∀ (s : State) (bs : List Byte), s.sync = .awaitingHeader → bs.length ≤ 24 →
    ∃ es t, run 1 (feeds (0x0F#8 :: bs)) s = some (es, t) ∧ t.bufByte 0 = 0x0F#8 ∧
      (∀ (k : Nat) (h : k < bs.length) (h' : k + 1 < 25), t.bufByte ⟨k + 1, h'⟩ = bs[k]) ∧
      (bs.length ≤ 23 → es = [] ∧ ∃ n : Position, t.sync = .reading n ∧ n.count = bs.length + 1)

/-- 40_synchronizer.md R115: after a RESYNC, from whatever state, a frame gives exactly one result, computed from its
own 25 bytes, and SYNC is back in AwaitingHeader. -/
def Obligations.FrameAfterResyncGivesOneResult : Prop :=
  ∀ (s : State) (f : Frame), f[0] = 0x0F#8 →
    ∃ es t, run 1 (encode .resync :: feeds f.toList) s = some (es, t) ∧
      es.map (fun e => (e.raw, e.result)) = [(f, complete f)] ∧ t.sync = .awaitingHeader

/-- FEEDFRAME after a RESYNC, from whatever state, gives exactly one result, Ok of the packet
(30_encoding.md R74; 42_codec.md R162, R163; 40_synchronizer.md R115; the step number is counted as
notes/assumptions/17.md says). -/
def Obligations.FeedFrameReturnsThePacket : Prop :=
  ∀ (s : State) (p : Packet), ∃ t,
    run 1 (encode .resync :: feedFrame p) s = some ([⟨26, encodeFrame (packE p), .ok p⟩], t) ∧
      t.sync = .awaitingHeader

/-- 10_state.md R25: two states that agree on S and on the meaningful bytes of BUF give the same results on every run
and end in states that agree so again; if the ENC port is the same in both, so is enc_frame. -/
def Obligations.StaleBytesAreNeverObservable : Prop :=
  ∀ (k : Nat) (ws : List PortWord) (s t : State), SameMeaning s t →
    ∃ es s' t', run k ws s = some (es, s') ∧ run k ws t = some (es, t') ∧ SameMeaning s' t' ∧
      (s.encIn = t.encIn → s.encOut = t.encOut → s'.encIn = t'.encIn ∧ s'.encOut = t'.encOut)

/-- SYNC and ENC share nothing: leaving the E words out of a run changes nothing of its observation
(20_memory.md R49; 30_encoding.md R66; 40_synchronizer.md R100). The step numbers of the observation agree because an
E word takes no number, which is the model's counting: notes/assumptions/17.md. -/
def Obligations.EncWordsDoNotInfluenceSync : Prop :=
  ∀ (ws : List PortWord) (s : State), (observe ws s).isSome = true ∧
    observe (ws.filter PortWord.isT) s = observe ws s

/-- The machine behind the host's interface, with the words in its list, runs as the words presented one by one do
(70_reset_and_hazards.md R240). -/
def Obligations.MachineRunsTheHostsList : Prop :=
  ∀ (k : Nat) (ws : List PortWord) (s : State), s.pending = [] →
    ∃ es t, run k ws s = some (es, t) ∧ core.run ws.length { s with pending := ws } = .next t

/-- 70_reset_and_hazards.md R236: SYNC can stay locked on a payload byte for every following frame. The frame with
channel 8 = 15 and the rest 0, its first header lost, gives one wrong Ok for each further copy, however many come. -/
def Obligations.FalseLockCanLastForEver : Prop :=
  ∀ (m : Nat) (s : State), s.sync = .awaitingHeader →
    let fb : Frame := #v[0x0F, 0, 0, 0, 0, 0, 0, 0, 0, 0, 0, 0, 0x0F, 0, 0, 0, 0, 0, 0, 0, 0, 0, 0, 0, 0]
    let wrong : Packet := ⟨#v[0, 0, 0, 0, 0, 0, 0, 0, 1792, 1, 0, 0, 0, 0, 0, 0], false, false, false, false⟩
    ∃ es t n, run 1 (feeds (fb.toList.tail ++ (List.replicate m fb.toList).flatten)) s = some (es, t) ∧
      es.map Emission.result = List.replicate m (.ok wrong) ∧ t.sync = .reading n ∧ n.count = 13

/-! ### VAL -/

/-- 41_validator.md R131, R132, R133: the footer against the closed set first, then the flag byte's high nibble, each
error carrying its byte. -/
def Obligations.ValidateChecksFooterThenFlags : Prop :=
  ∀ f : Frame,
    let legal : Prop := f[24] = 0x00#8 ∨ f[24] = 0x04#8 ∨ f[24] = 0x14#8 ∨ f[24] = 0x24#8 ∨ f[24] = 0x34#8
    (¬ legal → validateFrame f = some (.invalidFooter f[24])) ∧
    (legal → f[23].toNat < 16 → validateFrame f = none) ∧
    (legal → 16 ≤ f[23].toNat → validateFrame f = some (.invalidFlags f[23]))

/-- The header, the payload and the flag byte's low nibble are not checked (41_validator.md R130, R134): the result
depends on bytes 23 and 24 alone, and whether it passes depends on the footer and on the flag byte's high nibble
alone. An InvalidFlags error does carry the low nibble (R132). -/
def Obligations.ValidateIgnoresPayload : Prop :=
  (∀ f g : Frame, f[23] = g[23] → f[24] = g[24] → validateFrame f = validateFrame g) ∧
  (∀ f g : Frame, f[24] = g[24] → f[23] >>> 4 = g[23] >>> 4 → (validateFrame f = none ↔ validateFrame g = none))

/-! ### DEC and ENC -/

/-- 20_memory.md R46: payload bit p is bit p mod 8 of byte 1 + p div 8, and bit j of channel i is payload bit
11*i + j. -/
def Obligations.PayloadBitOrder : Prop :=
  (∀ (f : Frame) (p : Nat) (h : p < 176), (payload f).getLsbD p = (f[1 + p / 8]'(by omega)).getLsbD (p % 8)) ∧
  (∀ (f : Frame) (i : Fin 16) (j : Nat), j < 11 →
    ((decodeFrame f).ch[i]).getLsbD j = (payload f).getLsbD (11 * i.val + j))

/-- The field form of DECODE gives the byte form of the table of 42_codec.md R151, for every frame. -/
def Obligations.DecodeMatchesByteTable : Prop :=
  ∀ f : Frame, (decodeFrame f).ch = channelsByBytes f

/-- 42_codec.md R152. -/
def Obligations.DecodeCopiesFlagBits : Prop :=
  ∀ f : Frame, (decodeFrame f).ch17 = f[23].getLsbD 0 ∧ (decodeFrame f).ch18 = f[23].getLsbD 1 ∧
    (decodeFrame f).frameLost = f[23].getLsbD 2 ∧ (decodeFrame f).failsafe = f[23].getLsbD 3

/-- 20_memory.md R47: channel i reads the payload bytes from 1 + 11i div 8 to 1 + (11i+10) div 8 and every one of
them, which are three exactly where 11i mod 8 is 6 or more: channels 2, 5, 10 and 13. -/
def Obligations.ChannelSpansTwoOrThreeBytes : Prop :=
  ∀ i : Fin 16,
    let lo := 1 + 11 * i.val / 8
    let hi := 1 + (11 * i.val + 10) / 8
    (∀ f g : Frame, (∀ k : Fin 25, lo ≤ k.val → k.val ≤ hi → f[k] = g[k]) →
      (decodeFrame f).ch[i] = (decodeFrame g).ch[i]) ∧
    (∀ k : Fin 25, lo ≤ k.val → k.val ≤ hi → ∃ f g : Frame, (∀ c : Fin 25, c ≠ k → f[c] = g[c]) ∧
      (decodeFrame f).ch[i] ≠ (decodeFrame g).ch[i]) ∧
    (hi = lo + 1 ∨ hi = lo + 2) ∧ (hi = lo + 2 ↔ 6 ≤ 11 * i.val % 8) ∧
    (hi = lo + 2 ↔ i = 2 ∨ i = 5 ∨ i = 10 ∨ i = 13)

/-- ENCODE completes in every state, drives enc_frame as 42_codec.md R160 says, and touches neither S, BUF nor the
result bundle. -/
def Obligations.EncodeDrivesEncFrame : Prop :=
  ∀ (p : Packet) (s : State), ∃ t, exec (.encode p) s = .next t ∧ t.encIn = packE p ∧
    t.encOut[0] = 0x0F#8 ∧
    (∀ k : Fin 25, 1 ≤ k.val → k.val ≤ 22 → t.encOut[k] = (packE p).extractLsb' (8 * (k.val - 1)) 8) ∧
    (∀ j : Nat, t.encOut[23].getLsbD j = (decide (j < 4) && (packE p).getLsbD (176 + j))) ∧ t.encOut[24] = 0x00#8 ∧
    t.sync = s.sync ∧ t.buf = s.buf ∧ (∀ a : Fin 25, t.bufByte a = s.bufByte a) ∧ t.result = s.result ∧
    t.staleEpoch = s.staleEpoch ∧ t.pending = s.pending

/-- The field form of ENCODE gives the OR form of the table of 42_codec.md R161, for every packet. -/
def Obligations.EncodeMatchesOrTable : Prop :=
  ∀ p : Packet, encodeFrame (packE p) = encodeByOr p

/-- 42_codec.md R162: the flag byte, the footer and the header ENCODE writes, and that its output passes VALIDATE. -/
def Obligations.EncodeOutputPassesValidate : Prop :=
  ∀ p : Packet,
    (encodeFrame (packE p))[23] =
      (BitVec.ofBool p.ch17).setWidth 8 ||| (BitVec.ofBool p.ch18).setWidth 8 <<< 1
        ||| (BitVec.ofBool p.frameLost).setWidth 8 <<< 2 ||| (BitVec.ofBool p.failsafe).setWidth 8 <<< 3 ∧
    (encodeFrame (packE p))[23].toNat < 16 ∧ (encodeFrame (packE p))[24] = 0x00#8 ∧
    (encodeFrame (packE p))[0] = 0x0F#8 ∧ validateFrame (encodeFrame (packE p)) = none

/-- 42_codec.md R163: DECODE(ENCODE(E)) returns exactly the channels and flags in E. -/
def Obligations.DecodeOfEncodedFrame : Prop :=
  ∀ e : EWord, decodeFrame (encodeFrame e) = unpackE e

/-- 42_codec.md R164: for a frame with the header that passes VALIDATE, ENCODE(DECODE(F)) is F when its footer is 0x00,
and differs from F only in byte 24, which is then 0x00, for every other legal footer. -/
def Obligations.EncodeOfDecodedFrame : Prop :=
  ∀ f : Frame, f[0] = 0x0F#8 → validateFrame f = none →
    (f[24] = 0x00#8 → encodeFrame (packE (decodeFrame f)) = f) ∧
    (f[24] ≠ 0x00#8 → (encodeFrame (packE (decodeFrame f)))[24] = 0x00#8 ∧
      ∀ k : Fin 24, (encodeFrame (packE (decodeFrame f)))[k.castSucc] = f[k.castSucc])

/-- enc_frame is ENCODE(E) after every step, whatever the operation (30_encoding.md R66); the E word itself changes
only when the host presents one (the held E is the model's: notes/assumptions/1.md). -/
def Obligations.EncFrameIsEncodeInEveryStep : Prop :=
  ∀ s t : State, step s = .next t → t.encOut = encodeFrame t.encIn ∧
    ((∃ w ws, s.pending = .t w :: ws) → t.encIn = s.encIn)

/-! ### Ports, syntax, platform -/

/-- The result bundle of a completed frame: both error results with code, byte and raw frame, and Ok
(60_exceptions.md R200; 30_encoding.md R63, R65). A step without a result has res_valid = 0. -/
def Obligations.ResultBundleOfCompletedFrame : Prop :=
  (bundleOf none).resValid = false ∧
  ∀ f : Frame,
    let B := bundleOf (some (f, complete f))
    let legal : Prop := f[24] = 0x00#8 ∨ f[24] = 0x04#8 ∨ f[24] = 0x14#8 ∨ f[24] = 0x24#8 ∨ f[24] = 0x34#8
    B.resValid = true ∧ B.resRaw = some (flattenFrame f) ∧
    (¬ legal → B.resOk = some false ∧ B.resErrCode = some 0#1 ∧ B.resErrByte = some f[24]) ∧
    (legal → 16 ≤ f[23].toNat → B.resOk = some false ∧ B.resErrCode = some 1#1 ∧ B.resErrByte = some f[23]) ∧
    (legal → f[23].toNat < 16 → B.resOk = some true ∧ B.resPacket = some (decodeFrame f))

/-- Byte k of a flattened frame is at bits 8*k+7 : 8*k, on enc_frame and on res_raw (30_encoding.md R66). -/
def Obligations.FlattenedByteLayout : Prop :=
  ∀ (f : Frame) (k : Fin 25), (flattenFrame f).extractLsb' (8 * k.val) 8 = f[k]

/-- The words of the assembler lines (30_encoding.md R73), and the expansion of the pseudo-instructions (R74): FEEDS is
its FEED lines in order, FEEDFRAME is FEEDS of the bytes of ENCODE with the same operands. -/
def Obligations.AssemblerLinesEncode : Prop :=
  assembleLine .reset = some [.t 0x400#11] ∧ assembleLine .idle = some [.t 0x000#11] ∧
  assembleLine .resync = some [.t 0x200#11] ∧
  (∀ b : Nat, b < 256 → assembleLine (.feed b) = some [.t (BitVec.ofNat 11 (0x100 + b))] ∧
    assembleLine (.resyncFeed b) = some [.t (BitVec.ofNat 11 (0x300 + b))]) ∧
  (∀ bs : List Nat, (∀ b ∈ bs, b < 256) →
    assembleLine (.feeds bs) = some (bs.map fun b => .t (BitVec.ofNat 11 (0x100 + b)))) ∧
  (∀ (ch : List Nat) (fl : Nat), ch.length = 16 → (∀ c ∈ ch, c ≤ 2047) → fl < 16 →
    ∃ p : Packet, assembleLine (.encode ch fl) = some [encode (.encode p)] ∧
      assembleLine (.feedframe ch fl) = some (feedFrame p) ∧
      (∀ i : Fin 16, (p.ch[i]).toNat = ch.getD i.val 0) ∧
      p.ch17 = fl.testBit 0 ∧ p.ch18 = fl.testBit 1 ∧ p.frameLost = fl.testBit 2 ∧ p.failsafe = fl.testBit 3)

/-- 00_scope.md R6: a platform has one instance or more, and a step of one instance is that instance's own step and
leaves every other instance as it was. -/
def Obligations.InstancesShareNothing : Prop :=
  ∀ (p : Platform) (k : Nat), 1 ≤ p.count ∧
    (k < p.count ↔ (p.inst k).isSome = true) ∧
    ∀ (s t : State), p.inst k = some s → step s = .next t →
      ∃ q : Platform, p.stepAt k = some (.next q) ∧ q.count = p.count ∧ q.inst k = some t ∧
        ∀ j, j ≠ k → q.inst j = p.inst j
end

