-- ==== Sys2Proof/Laws/Codec.lean ====
section
/-! SUPPORT. The small lemmas of VAL and ENC: membership in the closed footer set, and the bytes of an encoded frame. -/

namespace Sys2Proof.Machine

theorem footerLegal_iff (b : Byte) :
    footerLegal b = true ↔ b = 0x00#8 ∨ b = 0x04#8 ∨ b = 0x14#8 ∨ b = 0x24#8 ∨ b = 0x34#8 := by
  simp [footerLegal, Config.footerSet]

theorem flagsLegal_iff (b : Byte) : flagsLegal b = true ↔ b.toNat < 16 := by
  revert b
  decide

@[simp] theorem encodeFrame_header (e : EWord) : (encodeFrame e)[0] = Config.header := by
  simp [encodeFrame]

theorem encodeFrame_payload (e : EWord) (k : Nat) (h1 : 1 ≤ k) (h22 : k ≤ 22) :
    (encodeFrame e)[k] = payloadByte (e.extractLsb' 0 176) k := by
  have h0 : k ≠ 0 := by omega
  simp [encodeFrame, h0, h22, Config.payloadLast]

@[simp] theorem encodeFrame_flags (e : EWord) : (encodeFrame e)[23] = flagByteOf e := by
  simp [encodeFrame, Config.payloadLast, Config.flagIdx]

@[simp] theorem encodeFrame_footer (e : EWord) : (encodeFrame e)[24] = Config.encFooter := by
  simp [encodeFrame, Config.payloadLast, Config.flagIdx]

@[simp] theorem wideByte_getLsbD (f : Frame) (k : Fin 25) (j : Nat) :
    (wideByte f k).getLsbD j = f[k].getLsbD j := by
  have h : f[k].getLsbD j = true → j < 19 := fun h => by
    have := BitVec.lt_of_getLsbD h
    omega
  simpa [wideByte, BitVec.getLsbD_setWidth] using h

theorem maskChan_getLsbD (x : BitVec 19) (j : Nat) (hj : j < 11) : (maskChan x).getLsbD j = x.getLsbD j := by
  have h : Config.chMask.getLsbD j = true := by
    revert j
    decide
  simp only [maskChan, BitVec.getLsbD_setWidth, BitVec.getLsbD_and, h, Bool.and_true]
  simp [hj]

theorem fragment_getLsbD (c : Chan) (r : Nat) (m : BitVec 16) (l j : Nat) (hj : j < 8) :
    (fragment c r m l).getLsbD j =
      (decide (l ≤ j) && (decide (r + (j - l) < 16) && c.getLsbD (r + (j - l)) && m.getLsbD (j - l))) := by
  by_cases hl : l ≤ j
  · have hn : ¬ j < l := by omega
    simp [fragment, BitVec.getLsbD_setWidth, hj, hl, hn]
  · have hn : j < l := by omega
    simp [fragment, BitVec.getLsbD_setWidth, BitVec.getLsbD_shiftLeft, hl, hn]

end Sys2Proof.Machine
end

