-- ==== Sys2Proof/Laws/Memory.lean ====
section
/-! SUPPORT. BUF's contents as a list in canonical form: read after write, and the form is kept. -/

namespace Sys2Proof.Machine

@[simp] theorem Memory.lookup_store_same (m : Memory) (k : Nat) (v : Byte) :
    Memory.lookup (Memory.store m k v) k = some v := by
  induction m with
  | nil => simp [Memory.store, Memory.lookup]
  | cons c m ih =>
    obtain ⟨a, b⟩ := c
    rcases Nat.lt_trichotomy k a with h | h | h
    · simp [Memory.store, Memory.lookup, h]
    · simp [Memory.store, Memory.lookup, h]
    · have : ¬ k < a := by omega
      have : k ≠ a := by omega
      have : a ≠ k := by omega
      simp [Memory.store, Memory.lookup, *]

theorem Memory.lookup_store_ne (m : Memory) {k j : Nat} (v : Byte) (hj : j ≠ k) :
    Memory.lookup (Memory.store m k v) j = Memory.lookup m j := by
  have hk : k ≠ j := hj.symm
  induction m with
  | nil => simp [Memory.store, Memory.lookup, hk]
  | cons c m ih =>
    obtain ⟨a, b⟩ := c
    rcases Nat.lt_trichotomy k a with h | h | h
    · simp [Memory.store, Memory.lookup, h, hk]
    · subst h
      simp [Memory.store, Memory.lookup, hk]
    · have : ¬ k < a := by omega
      have : k ≠ a := by omega
      simp [Memory.store, Memory.lookup, *]

theorem Memory.wfFrom_store (m : Memory) {lo k : Nat} (v : Byte) (hlo : lo ≤ k) (hk : k < 25)
    (hm : Memory.wfFrom lo m = true) : Memory.wfFrom lo (Memory.store m k v) = true := by
  induction m generalizing lo with
  | nil => simp [Memory.store, Memory.wfFrom, hlo, hk]
  | cons c m ih =>
    obtain ⟨a, b⟩ := c
    simp only [Memory.wfFrom, Bool.and_eq_true, decide_eq_true_eq] at hm
    obtain ⟨⟨h1, h2⟩, h3⟩ := hm
    rcases Nat.lt_trichotomy k a with h | h | h
    · have : k + 1 ≤ a := h
      simp [Memory.store, Memory.wfFrom, *]
    · subst h
      simp [Memory.store, Memory.wfFrom, *]
    · have h4 : ¬ k < a := by omega
      have h5 : k ≠ a := by omega
      have := ih (lo := a + 1) h h3
      simp [Memory.store, Memory.wfFrom, *]

/-- A write keeps the canonical form. -/
theorem Memory.wf_store (m : Memory) (a : Fin 25) (v : Byte) (hm : Memory.wf m = true) :
    Memory.wf (Memory.store m a.val v) = true :=
  Memory.wfFrom_store m v (Nat.zero_le _) a.isLt hm

/-- RESET's forgetting of BUF gives the canonical form. -/
theorem State.forgetBuf_wf (s : State) : Memory.wf s.forgetBuf.buf = true := rfl

/-- The memory after reset is in canonical form. -/
theorem State.reset_wf : Memory.wf State.reset.buf = true := rfl

end Sys2Proof.Machine
end

