-- ==== Sys2Proof/Laws/State.lean ====
section
/-! SUPPORT. One lemma for each field of State under each of its updates, true by rfl. -/

namespace Sys2Proof.Machine

@[simp] theorem State.writeBuf_sync (s : State) (a : Fin 25) (b : Byte) : (s.writeBuf a b).sync = s.sync := rfl
@[simp] theorem State.writeBuf_buf (s : State) (a : Fin 25) (b : Byte) : (s.writeBuf a b).buf = Memory.store s.buf a.val b := rfl
@[simp] theorem State.writeBuf_staleEpoch (s : State) (a : Fin 25) (b : Byte) : (s.writeBuf a b).staleEpoch = s.staleEpoch := rfl
@[simp] theorem State.writeBuf_encIn (s : State) (a : Fin 25) (b : Byte) : (s.writeBuf a b).encIn = s.encIn := rfl
@[simp] theorem State.writeBuf_encOut (s : State) (a : Fin 25) (b : Byte) : (s.writeBuf a b).encOut = s.encOut := rfl
@[simp] theorem State.writeBuf_result (s : State) (a : Fin 25) (b : Byte) : (s.writeBuf a b).result = s.result := rfl
@[simp] theorem State.writeBuf_pending (s : State) (a : Fin 25) (b : Byte) : (s.writeBuf a b).pending = s.pending := rfl

@[simp] theorem State.forgetBuf_sync (s : State) : (s.forgetBuf).sync = s.sync := rfl
@[simp] theorem State.forgetBuf_buf (s : State) : (s.forgetBuf).buf = [] := rfl
@[simp] theorem State.forgetBuf_staleEpoch (s : State) : (s.forgetBuf).staleEpoch = s.staleEpoch + 1 := rfl
@[simp] theorem State.forgetBuf_encIn (s : State) : (s.forgetBuf).encIn = s.encIn := rfl
@[simp] theorem State.forgetBuf_encOut (s : State) : (s.forgetBuf).encOut = s.encOut := rfl
@[simp] theorem State.forgetBuf_result (s : State) : (s.forgetBuf).result = s.result := rfl
@[simp] theorem State.forgetBuf_pending (s : State) : (s.forgetBuf).pending = s.pending := rfl

@[simp] theorem State.setSync_sync (s : State) (v : SyncState) : (s.setSync v).sync = v := rfl
@[simp] theorem State.setSync_buf (s : State) (v : SyncState) : (s.setSync v).buf = s.buf := rfl
@[simp] theorem State.setSync_staleEpoch (s : State) (v : SyncState) : (s.setSync v).staleEpoch = s.staleEpoch := rfl
@[simp] theorem State.setSync_encIn (s : State) (v : SyncState) : (s.setSync v).encIn = s.encIn := rfl
@[simp] theorem State.setSync_encOut (s : State) (v : SyncState) : (s.setSync v).encOut = s.encOut := rfl
@[simp] theorem State.setSync_result (s : State) (v : SyncState) : (s.setSync v).result = s.result := rfl
@[simp] theorem State.setSync_pending (s : State) (v : SyncState) : (s.setSync v).pending = s.pending := rfl

@[simp] theorem State.present_sync (s : State) (r : Option (Frame × FrameResult)) : (s.present r).sync = s.sync := rfl
@[simp] theorem State.present_buf (s : State) (r : Option (Frame × FrameResult)) : (s.present r).buf = s.buf := rfl
@[simp] theorem State.present_staleEpoch (s : State) (r : Option (Frame × FrameResult)) : (s.present r).staleEpoch = s.staleEpoch := rfl
@[simp] theorem State.present_encIn (s : State) (r : Option (Frame × FrameResult)) : (s.present r).encIn = s.encIn := rfl
@[simp] theorem State.present_encOut (s : State) (r : Option (Frame × FrameResult)) : (s.present r).encOut = encodeFrame s.encIn := rfl
@[simp] theorem State.present_result (s : State) (r : Option (Frame × FrameResult)) : (s.present r).result = r := rfl
@[simp] theorem State.present_pending (s : State) (r : Option (Frame × FrameResult)) : (s.present r).pending = s.pending := rfl

@[simp] theorem State.driveEnc_sync (s : State) (e : EWord) : (s.driveEnc e).sync = s.sync := rfl
@[simp] theorem State.driveEnc_buf (s : State) (e : EWord) : (s.driveEnc e).buf = s.buf := rfl
@[simp] theorem State.driveEnc_staleEpoch (s : State) (e : EWord) : (s.driveEnc e).staleEpoch = s.staleEpoch := rfl
@[simp] theorem State.driveEnc_encIn (s : State) (e : EWord) : (s.driveEnc e).encIn = e := rfl
@[simp] theorem State.driveEnc_encOut (s : State) (e : EWord) : (s.driveEnc e).encOut = encodeFrame e := rfl
@[simp] theorem State.driveEnc_result (s : State) (e : EWord) : (s.driveEnc e).result = s.result := rfl
@[simp] theorem State.driveEnc_pending (s : State) (e : EWord) : (s.driveEnc e).pending = s.pending := rfl

@[simp] theorem State.offer_sync (s : State) (w : PortWord) : (s.offer w).sync = s.sync := rfl
@[simp] theorem State.offer_buf (s : State) (w : PortWord) : (s.offer w).buf = s.buf := rfl
@[simp] theorem State.offer_staleEpoch (s : State) (w : PortWord) : (s.offer w).staleEpoch = s.staleEpoch := rfl
@[simp] theorem State.offer_encIn (s : State) (w : PortWord) : (s.offer w).encIn = s.encIn := rfl
@[simp] theorem State.offer_encOut (s : State) (w : PortWord) : (s.offer w).encOut = s.encOut := rfl
@[simp] theorem State.offer_result (s : State) (w : PortWord) : (s.offer w).result = s.result := rfl
@[simp] theorem State.offer_pending (s : State) (w : PortWord) : (s.offer w).pending = w :: s.pending := rfl

end Sys2Proof.Machine
end

