-- ==== Sys2Proof/Laws/Ops.lean ====
section
/-! SUPPORT. One lemma for each shared operation, saying what it does to a byte of BUF or to the host's list. -/

namespace Sys2Proof.Machine

@[simp] theorem State.bufByte_writeBuf_same (s : State) (a : Fin 25) (b : Byte) :
    (s.writeBuf a b).bufByte a = b := by
  simp [State.bufByte]

theorem State.bufByte_writeBuf_ne (s : State) {a c : Fin 25} (b : Byte) (h : c ≠ a) :
    (s.writeBuf a b).bufByte c = s.bufByte c := by
  have : c.val ≠ a.val := fun e => h (Fin.ext e)
  simp [State.bufByte, Memory.lookup_store_ne _ _ this]

/-- Every byte is unspecified after RESET (40_synchronizer.md R110). -/
@[simp] theorem State.bufByte_forgetBuf (s : State) (a : Fin 25) :
    s.forgetBuf.bufByte a = Config.staleByte (s.staleEpoch + 1) a.val := rfl

@[simp] theorem State.bufByte_setSync (s : State) (v : SyncState) (a : Fin 25) :
    (s.setSync v).bufByte a = s.bufByte a := rfl

@[simp] theorem State.bufByte_present (s : State) (r : Option (Frame × FrameResult)) (a : Fin 25) :
    (s.present r).bufByte a = s.bufByte a := rfl

@[simp] theorem State.bufByte_driveEnc (s : State) (e : EWord) (a : Fin 25) :
    (s.driveEnc e).bufByte a = s.bufByte a := rfl

@[simp] theorem State.bufByte_offer (s : State) (w : PortWord) (a : Fin 25) :
    (s.offer w).bufByte a = s.bufByte a := rfl

/-- A byte that is listed reads as it is listed. -/
theorem State.bufByte_of_lookup {s : State} {a : Fin 25} {b : Byte} (h : Memory.lookup s.buf a.val = some b) :
    s.bufByte a = b := by
  simp [State.bufByte, h]

@[simp] theorem State.frameWith_last (s : State) (b : Byte) : (s.frameWith b)[24] = b := by
  simp [State.frameWith, Config.footerIdx]

theorem State.frameWith_of_lt (s : State) (b : Byte) (k : Nat) (h : k < 24) :
    (s.frameWith b)[k] = s.bufByte ⟨k, by omega⟩ := by
  have : k ≠ 24 := by omega
  simp [State.frameWith, Config.footerIdx, this]

@[simp] theorem Position.addr_val (n : Position) : n.addr.val = n.count := rfl

@[simp] theorem Position.next_count (n : Position) (h : n.count < 24) : (n.next h).count = n.count + 1 := rfl

/-- Two positions with one count are the same position. -/
theorem Position.eq_of_count {n m : Position} (h : n.count = m.count) : n = m := by
  cases n
  cases m
  simp_all

/-- All that fetch can do: take the head of the host's list. -/
theorem fetch_cases {s s' : State} {i : Instr} (h : fetch s = some (i, s')) :
    ∃ w ws, s.pending = w :: ws ∧ i = decodeWord w ∧ s' = { s with pending := ws } := by
  unfold fetch at h
  split at h
  · cases h
  · rename_i w ws hp
    simp only [Option.some.injEq, Prod.mk.injEq] at h
    exact ⟨w, ws, hp, h.1.symm, h.2.symm⟩

end Sys2Proof.Machine
end

