-- ==== Sys2Proof/Laws/PerInstr.lean ====
section
/-! SUPPORT. Per-instruction statements about the instruction as syntax: its canonical word lies in its own row of
spec/opcode_table.json, and in no other T row. -/

namespace Sys2Proof.Laws

/-- The T row of the operation's mnemonic holds its canonical word and no other row does; an ENC operation has no
T word. -/
def TableRow.Statement (i : Instr) : Prop :=
  match encode i with
  | .t w => (opRows.filter fun r => r.holds w).map OpRow.mnemonic = [i.mnemonic]
  | .e _ => i.mnemonic = "ENCODE"

theorem TableRow.reset : TableRow.Statement .reset := by
  show (opRows.filter fun r => r.holds 0x400#11).map OpRow.mnemonic = ["RESET"]
  decide

theorem TableRow.idle : TableRow.Statement .idle := by
  show (opRows.filter fun r => r.holds 0x000#11).map OpRow.mnemonic = ["IDLE"]
  decide

theorem TableRow.resync : TableRow.Statement .resync := by
  show (opRows.filter fun r => r.holds 0x200#11).map OpRow.mnemonic = ["RESYNC"]
  decide

theorem TableRow.encode (p : Packet) : TableRow.Statement (.encode p) := rfl

theorem TableRow.feed_word (b : Byte) : (0x100#11 ||| b.setWidth 11) &&& 0x700#11 = 0x100#11 := by
  revert b
  decide

theorem TableRow.feed_no_reset (b : Byte) : (0x100#11 ||| b.setWidth 11) &&& 0x400#11 = 0x000#11 := by
  revert b
  decide

theorem TableRow.resyncFeed_word (b : Byte) : (0x300#11 ||| b.setWidth 11) &&& 0x700#11 = 0x300#11 := by
  revert b
  decide

theorem TableRow.resyncFeed_no_reset (b : Byte) : (0x300#11 ||| b.setWidth 11) &&& 0x400#11 = 0x000#11 := by
  revert b
  decide

theorem TableRow.feed (b : Byte) : TableRow.Statement (.feed b) := by
  simp [TableRow.Statement, Sys2Proof.encode, opRows, OpRow.holds, feed_word, feed_no_reset, Instr.mnemonic]

theorem TableRow.resyncFeed (b : Byte) : TableRow.Statement (.resyncFeed b) := by
  simp [TableRow.Statement, Sys2Proof.encode, opRows, OpRow.holds, resyncFeed_word, resyncFeed_no_reset,
    Instr.mnemonic]

end Sys2Proof.Laws
end

