-- ==== Sys2Proof/Laws/Sync.lean ====
section
/-! SUPPORT. What feed(b) and a step can do, said once. -/

namespace Sys2Proof.Machine

theorem feedByte_awaiting_header {s : State} (h : s.sync = .awaitingHeader) :
    feedByte Config.header s =
      ((s.writeBuf 0 Config.header).setSync (.reading Position.first)).present none := by
  simp [feedByte, h]

theorem feedByte_awaiting_other {s : State} {b : Byte} (h : s.sync = .awaitingHeader) (hb : b ≠ Config.header) :
    feedByte b s = s.present none := by
  simp [feedByte, h, hb]

theorem feedByte_reading {s : State} {n : Position} (b : Byte) (h : s.sync = .reading n) (hn : n.count < 24) :
    feedByte b s = ((s.writeBuf n.addr b).setSync (.reading (n.next hn))).present none := by
  simp [feedByte, h, hn]

theorem feedByte_last {s : State} {n : Position} (b : Byte) (h : s.sync = .reading n) (hn : n.count = 24) :
    feedByte b s =
      ((s.writeBuf 24 b).setSync .awaitingHeader).present (some (s.frameWith b, complete (s.frameWith b))) := by
  simp [feedByte, h, hn]

/-- The four ways a byte can be taken (40_synchronizer.md R102 to R104). -/
theorem feedByte_cases (b : Byte) (s : State) :
    (s.sync = .awaitingHeader ∧ b = Config.header ∧
      feedByte b s = ((s.writeBuf 0 b).setSync (.reading Position.first)).present none) ∨
    (s.sync = .awaitingHeader ∧ b ≠ Config.header ∧ feedByte b s = s.present none) ∨
    (∃ n, ∃ hn : n.count < 24, s.sync = .reading n ∧
      feedByte b s = ((s.writeBuf n.addr b).setSync (.reading (n.next hn))).present none) ∨
    (∃ n, n.count = 24 ∧ s.sync = .reading n ∧ feedByte b s =
      ((s.writeBuf 24 b).setSync .awaitingHeader).present (some (s.frameWith b, complete (s.frameWith b)))) := by
  rcases hs : s.sync with _ | n
  · by_cases hb : b = Config.header
    · subst hb
      exact .inl ⟨rfl, rfl, feedByte_awaiting_header hs⟩
    · exact .inr (.inl ⟨rfl, hb, feedByte_awaiting_other hs hb⟩)
  · by_cases hn : n.count < 24
    · exact .inr (.inr (.inl ⟨n, hn, rfl, feedByte_reading b hs hn⟩))
    · have : n.count = 24 := Nat.le_antisymm n.le_24 (Nat.le_of_not_lt hn)
      exact .inr (.inr (.inr ⟨n, this, rfl, feedByte_last b hs this⟩))

/-- The state an operation leaves, as one function; exec always answers it. -/
def after : Instr → State → State
  | .reset, s => (s.forgetBuf.setSync .awaitingHeader).present none
  | .idle, s => s.present none
  | .feed b, s => feedByte b s
  | .resync, s => (s.setSync .awaitingHeader).present none
  | .resyncFeed b, s => feedByte b (s.setSync .awaitingHeader)
  | .encode p, s => s.driveEnc (packE p)

theorem exec_eq_after (i : Instr) (s : State) : exec i s = .next (after i s) := by
  cases i <;> rfl

/-- All that a step can do. -/
theorem step_next_cases {s t : State} (h : step s = .next t) :
    ∃ w ws, s.pending = w :: ws ∧ t = after (decodeWord w) { s with pending := ws } := by
  unfold step at h
  split at h
  · cases h
  · rename_i i s' hf
    obtain ⟨w, ws, hp, rfl, rfl⟩ := fetch_cases hf
    rw [exec_eq_after] at h
    cases h
    exact ⟨w, ws, hp, rfl⟩

theorem step_offer (s : State) (w : PortWord) : step (s.offer w) = exec (decodeWord w) s := rfl

end Sys2Proof.Machine
end

