-- ==== Sys2Proof/Laws/Run.lean ====
section
/-! SUPPORT. What a run does with one word, said once, and that every run completes. -/

namespace Sys2Proof.Machine

theorem run_nil (k : Nat) (s : State) : run k [] s = some ([], s) := rfl

theorem run_cons (k : Nat) (w : PortWord) (ws : List PortWord) (s : State) :
    run k (w :: ws) s =
      (run (nextIndex k w) ws (after (decodeWord w) s)).map fun r =>
        (emission k w (after (decodeWord w) s) ++ r.1, r.2) := by
  simp only [run, step_offer, exec_eq_after]

theorem run_completes (ws : List PortWord) (k : Nat) (s : State) : ∃ es t, run k ws s = some (es, t) := by
  induction ws generalizing k s with
  | nil => exact ⟨[], s, rfl⟩
  | cons w ws ih =>
    obtain ⟨es, t, h⟩ := ih (nextIndex k w) (after (decodeWord w) s)
    exact ⟨_, _, by rw [run_cons, h]; rfl⟩

end Sys2Proof.Machine
end

