-- ==== Sys2Proof/Tests/Slice0.lean ====
section
/-! SUPPORT. The model's own tests: words written out from the spec's tables, ill-formed terms that the checks refuse,
small one-step tests with the values of 95_test_vectors.md, and a witness for the hypotheses of each statement. -/

namespace Sys2Proof.Tests

open Sys2Proof.Machine Sys2Proof.Safety

/-- FV1 of 95_test_vectors.md. -/
def fv1 : Frame := #v[0x0F, 0xE0, 0x03, 0x1F, 0x58, 0xC0, 0x07, 0x16, 0xB0, 0x80, 0x05, 0x2C, 0x60, 0x01, 0x0B, 0xF8,
  0xC0, 0x07, 0x00, 0x00, 0x00, 0x00, 0x00, 0x03, 0x00]

/-- PV1 of 95_test_vectors.md. -/
def pv1 : Packet := ⟨#v[992, 992, 352, 992, 352, 352, 352, 352, 352, 352, 992, 992, 0, 0, 0, 0], true, true, false, false⟩

/-- The frame of V11: FV1 with a flag byte and a footer. -/
def fv (flags footer : Byte) : Frame := (fv1.set 23 flags).set 24 footer

/-- A state in Reading(n) whose BUF starts with the given bytes. -/
def readingState (n : Position) (bs : List Byte) : State :=
  { State.reset with sync := .reading n, buf := bs.zipIdx.map fun p => (p.2, p.1) }

def pos5 : Position := ⟨5, by decide, by decide⟩
def pos23 : Position := ⟨23, by decide, by decide⟩

/-- Reading(24) with BUF[0..23] = FV1[0..23] (V9). -/
def almost : State := readingState Position.last (fv1.toList.take 24)

/-- The next state of an outcome. -/
def nextOf : Host.Outcome State Fault Refusal → Option State
  | .next s => some s
  | .fault _ => none
  | .refused _ => none

/-! ### Decoding: words written bit by bit from 30_encoding.md R60, R61 and R66 -/

theorem test_decode_reset_ignores_all : decodeT 0b11111111111#11 = .reset := by decide
theorem test_decode_reset_byte_present : decodeT 0b10100001111#11 = .reset := by decide
theorem test_decode_idle_ignores_data : decodeT 0b00011111111#11 = .idle := by decide
theorem test_decode_feed : decodeT 0b00110101011#11 = .feed 0xAB#8 := by decide
theorem test_decode_resync_ignores_data : decodeT 0b01001010101#11 = .resync := by decide
theorem test_decode_resync_feed : decodeT 0b01101010101#11 = .resyncFeed 0x55#8 := by decide

/-- Channel 5 is E[65:55] and frame_lost is E[178]. -/
theorem test_decode_encode :
    decodeE (0b10000000001#180 <<< 55 ||| 1#180 <<< 178) =
      .encode ⟨#v[0, 0, 0, 0, 0, 1025, 0, 0, 0, 0, 0, 0, 0, 0, 0, 0], false, false, true, false⟩ := by decide

theorem test_encode_words : encode .reset = .t 0x400#11 ∧ encode .idle = .t 0x000#11 ∧ encode .resync = .t 0x200#11 ∧
    encode (.feed 0x0F#8) = .t 0x10F#11 ∧ encode (.resyncFeed 0x0F#8) = .t 0x30F#11 := by decide

theorem test_table_word_t : decodeTableWord 16 0x30F = some (.resyncFeed 0x0F#8) := by decide
theorem test_table_word_e : decodeTableWord 184 2047 = decodeTableWord 8 2047 ∧
    decodeTableWord 184 2047 =
      some (.encode ⟨#v[2047, 0, 0, 0, 0, 0, 0, 0, 0, 0, 0, 0, 0, 0, 0, 0], false, false, false, false⟩) := by decide
theorem test_table_word_rejected : decodeTableWord 16 0x800 = none ∧ decodeTableWord 184 (2 ^ 180) = none := by decide
theorem test_with_fetch_word : ((nextOf (step (State.reset.withFetchWord 16 0x10F))).map State.sync) =
    some (.reading Position.first) := by decide

/-- The parameters of 00_scope.md R5 agree with one another and with the types. -/
theorem test_parameters : fv1.size = Config.frameLen ∧ pv1.ch.size = Config.numCh ∧
    Config.payloadBits = Config.numCh * Config.chBits ∧
    Config.payloadBits = 8 * (Config.payloadLast + 1 - Config.payloadFirst) ∧
    Config.frameLen = Config.readCount + 1 := by decide

/-! ### Well-formedness: each check refuses an ill-formed line -/

theorem test_wf_feed : Line.wf (.feed 256) = false ∧ Line.wf (.feed 255) = true := by decide
theorem test_wf_resync_feed : Line.wf (.resyncFeed 256) = false := by decide
theorem test_wf_encode_value : Line.wf (.encode (List.replicate 16 2048) 0) = false ∧
    Line.wf (.encode (List.replicate 16 2047) 15) = true := by decide
theorem test_wf_encode_count : Line.wf (.encode (List.replicate 15 0) 0) = false := by decide
theorem test_wf_encode_flags : Line.wf (.encode (List.replicate 16 0) 16) = false := by decide
theorem test_wf_feeds : Line.wf (.feeds [0, 256, 1]) = false := by decide
theorem test_wf_feedframe : Line.wf (.feedframe (List.replicate 17 0) 0) = false := by decide
theorem test_assemble_refuses : assembleLine (.feed 256) = none := by decide

/-- The syntax of 30_encoding.md R73, as 95_test_vectors.md writes it. -/
theorem test_assemble_text :
    assemble ["RESET ; power-up", "FEEDS AA 55", "RESYNC_FEED 0x0F", ""] =
      some [.t 0x400#11, .t 0x1AA#11, .t 0x155#11, .t 0x30F#11] := by decide
theorem test_parse_encode : parseLine "ENCODE ch=[0,100,200,300,400,500,600,700,800,900,1000,1100,1200,1300,1400,1500] fl=5" =
    some [.encode [0, 100, 200, 300, 400, 500, 600, 700, 800, 900, 1000, 1100, 1200, 1300, 1400, 1500] 5] := by decide
/-- The model's choice (notes/assumptions/16.md): empty fields of a channel list are refused, repeated spaces skipped. -/
theorem test_parse_empty_field : parseChannels "ch=[0,,1]".toList = none ∧ parseChannels "ch=[,0]".toList = none ∧
    parseChannels "ch=[0,]".toList = none ∧ parseChannels "ch=[]".toList = none ∧
    parseChannels "ch=[0,2047]".toList = some [0, 2047] ∧ parseLine "  FEED   0f " = some [.feed 15] := by decide

/-! ### One step each, values of 95_test_vectors.md -/

/-- V9, last but one row, and V1. -/
theorem test_feed_completes : (nextOf (exec (.feed 0x00#8) almost)).map (fun t => (t.sync, t.result)) =
    some (.awaitingHeader, some (fv1, .ok pv1)) := by decide
/-- V9, row Reading(5). -/
theorem test_feed_stores : (nextOf (exec (.feed 0xAB#8) (readingState pos5 [0x0F, 1, 2, 3, 4]))).map
    (fun t => (t.sync.cnt, t.bufByte 5, t.bufByte 4, t.result.isNone)) = some (6#5, 0xAB#8, 4#8, true) := by decide
/-- V10, row IDLE. -/
theorem test_idle : (nextOf (exec .idle (readingState pos5 [0x0F, 1, 2, 3, 4]))).map (fun t => (t.sync, t.result)) =
    some (.reading pos5, none) := by decide
/-- V10, row RESYNC in Reading(24): 24 bytes are dropped and nothing is emitted. -/
theorem test_resync : (nextOf (exec .resync almost)).map (fun t => (t.sync, t.buf == almost.buf, t.result)) =
    some (.awaitingHeader, true, none) := by decide
/-- V10, row RESYNC_FEED 0F in Reading(24). -/
theorem test_resync_feed_header : (nextOf (exec (.resyncFeed 0x0F#8) almost)).map (fun t => (t.sync.cnt, t.result)) =
    some (1#5, none) := by decide
/-- V10, row RESYNC_FEED 55. -/
theorem test_resync_feed_other : (nextOf (exec (.resyncFeed 0x55#8) almost)).map (fun t => (t.sync.cnt, t.result)) =
    some (0#5, none) := by decide
/-- V10, row 0x50F: the byte is not stored. -/
theorem test_reset_drops_byte : (nextOf (exec (decodeT 0x50F#11) almost)).map (fun t => (t.sync, t.buf, t.result)) =
    some (.awaitingHeader, [], none) := by decide
/-- V14, row ch i = 100*i. -/
theorem test_encode_hundreds : (nextOf (exec (.encode
    ⟨#v[0, 100, 200, 300, 400, 500, 600, 700, 800, 900, 1000, 1100, 1200, 1300, 1400, 1500], true, false, true, false⟩)
    almost)).map (fun t => (t.encOut, t.sync == almost.sync)) =
    some (#v[0x0F, 0x00, 0x20, 0x03, 0x32, 0x58, 0x02, 0x19, 0xFA, 0x60, 0x89, 0x57, 0x20, 0x23, 0x1C, 0xFA, 0x98, 0x08,
      0x4B, 0x8A, 0xE2, 0x95, 0xBB, 0x05, 0x00], true) := by decide
/-- V14, row all 1365, fl = 2. -/
theorem test_encode_1365 : encodeFrame (packE ⟨Vector.replicate 16 1365, false, true, false, false⟩) =
    #v[0x0F, 0x55, 0xAD, 0x6A, 0x55, 0xAB, 0x5A, 0xD5, 0xAA, 0x56, 0xB5, 0xAA, 0x55, 0xAD, 0x6A, 0x55, 0xAB, 0x5A, 0xD5,
      0xAA, 0x56, 0xB5, 0xAA, 0x02, 0x00] := by decide

/-! ### VAL, DEC and the byte tables, values of 95_test_vectors.md -/

/-- V11. -/
theorem test_validate_ok : validateFrame (fv 0x0F 0x34) = none := by decide
theorem test_validate_footer : validateFrame (fv 0x00 0x44) = some (.invalidFooter 0x44) := by decide
theorem test_validate_flags : validateFrame (fv 0x80 0x34) = some (.invalidFlags 0x80) := by decide
theorem test_validate_order : validateFrame (fv 0x13 0x05) = some (.invalidFooter 0x05) := by decide
/-- V1, through the byte table of R151, and V2, through the OR table of R161. -/
theorem test_byte_table : channelsByBytes fv1 = pv1.ch := by decide
theorem test_or_table : encodeByOr pv1 = fv1 := by decide
/-- V13, rows 22 × 55 and F[9] = 0x03. -/
theorem test_decode_55 : (decodeFrame (Vector.ofFn fun k : Fin 25 => if 1 ≤ k.val ∧ k.val ≤ 22 then 0x55#8 else 0#8)).ch =
    #v[1365, 682, 1365, 682, 1365, 682, 1365, 682, 1365, 682, 1365, 682, 1365, 682, 1365, 682] := by decide
theorem test_decode_third_byte : (decodeFrame ((Vector.replicate 25 0#8).set 9 0x03#8)).ch[5] = 1536#11 := by decide
/-- V3: code 0 and the footer byte on the bundle. -/
theorem test_bundle_error : bundleOf (some (fv 0x0F 0xFF, complete (fv 0x0F 0xFF))) =
    ⟨true, some false, some 0#1, some 0xFF#8, none, some (flattenFrame (fv 0x0F 0xFF))⟩ := by decide

/-! ### Witnesses: a concrete case meeting the hypotheses of each statement that has some -/

theorem witness_DecodeOfEncodeIsSameInstr : Instr.wf (.encode pv1) = true := rfl
theorem witness_IgnoredFieldsHaveNoEffect :
    (tRst 0x50F#11 = true ∧ tRst 0x7FF#11 = true) ∧
    (tRst 0x2FF#11 = false ∧ tInValid 0x2FF#11 = false ∧ tRst 0x200#11 = false ∧ tInValid 0x200#11 = false ∧
      tResync 0x2FF#11 = tResync 0x200#11) ∧
    (encode .resync = .t 0x200#11 ∧ tInValid 0x200#11 = false) ∧
    (encode .reset = .t 0x400#11 ∧ tRst 0x400#11 = true) := by decide
theorem witness_RawNumberDecodesIffItFits :
    2047 < 2 ^ 11 ∧ 2 ^ 11 ≤ 2048 ∧ 2 ^ 180 - 1 < 2 ^ 180 ∧ 2 ^ 180 ≤ 2 ^ 180 := by decide
theorem witness_StepRunsTheDecodedOperation :
    (State.reset.offer (.t 0x10F#11)).pending = .t 0x10F#11 :: [] ∧ State.reset.pending = [] := ⟨rfl, rfl⟩
theorem witness_ResetThenResyncThenByte :
    (0x50F#11).getLsbD 10 = true ∧ ((0x200#11).getLsbD 10 = false ∧ (0x200#11).getLsbD 8 = false) ∧
    ((0x30F#11).getLsbD 10 = false ∧ (0x30F#11).getLsbD 8 = true) := by decide
theorem witness_FeedingNeverFails :
    ∃ t, exec (decodeT 0x1FF#11) almost = .next t ∧ t.result = some (fv 0x03 0xFF, .err (.invalidFooter 0xFF#8)) :=
  ⟨_, rfl, by decide⟩
theorem witness_FeedAwaitingHeader :
    State.reset.sync = .awaitingHeader ∧ (0x0F#8 : Byte) = 0x0F#8 ∧ (0x10#8 : Byte) ≠ 0x0F#8 := by decide
theorem witness_FeedInsideFrame :
    ((readingState Position.first [0x0F]).sync = .reading Position.first ∧ Position.first.count ≤ 23) ∧
    ((readingState pos23 [0x0F]).sync = .reading pos23 ∧ pos23.count ≤ 23) := by decide
theorem witness_FeedCompletesFrame : almost.sync = .reading Position.last ∧ Position.last.count = 24 := by decide
theorem witness_CompleteValidatesThenDecodes :
    validateFrame (fv 0x10 0x00) = some (.invalidFlags 0x10) ∧ validateFrame fv1 = none := by decide
theorem witness_ResultOnlyInCompletingStep :
    ∃ t, exec (decodeT 0x100#11) almost = .next t ∧ t.result.isSome = true := ⟨_, rfl, by decide⟩
theorem witness_ResyncFeedIsResyncThenFeed : ∃ t, exec .resync almost = .next t := ⟨_, rfl⟩
theorem witness_ResetIgnoresEverythingElse : tRst 0x50F#11 = true := by decide
theorem witness_ResetLeavesBufUnspecified : ∃ t, exec .reset almost = .next t := ⟨_, rfl⟩
theorem witness_AtMostOneBufByteWritten :
    tRst 0x155#11 = false ∧ ∃ t, exec (decodeT 0x155#11) (readingState pos5 [0x0F, 1, 2, 3, 4, 5]) = .next t ∧
      t.bufByte 5 ≠ (readingState pos5 [0x0F, 1, 2, 3, 4, 5]).bufByte 5 := ⟨by decide, _, rfl, by decide⟩
/-- The header's case: BUF[0] held another byte. -/
theorem witness_AtMostOneBufByteWritten_header :
    tRst 0x10F#11 = false ∧ ∃ t, exec (decodeT 0x10F#11) { State.reset with buf := [(0, 0x01#8)] } = .next t ∧
      t.bufByte 0 ≠ ({ State.reset with buf := [(0, 0x01#8)] } : State).bufByte 0 := ⟨by decide, _, rfl, by decide⟩
theorem witness_PositionAdvancesByOne :
    almost.sync = .reading Position.last ∧ Position.last.count = 24 ∧ pos23.count < 24 ∧
      (∃ t, exec (decodeT 0x100#11) almost = .next t) ∧ tRst 0x100#11 = false ∧ tResync 0x100#11 = false ∧
      tInValid 0x100#11 = true ∧ tInValid 0x000#11 = false := ⟨rfl, rfl, by decide, ⟨_, rfl⟩, by decide⟩
/-- The clauses of a resync and of a reset. -/
theorem witness_PositionAdvancesByOne_leave :
    (tRst 0x30F#11 = false ∧ tResync 0x30F#11 = true ∧ tInValid 0x30F#11 = true ∧ tInData 0x30F#11 = 0x0F#8) ∧
      (tRst 0x355#11 = false ∧ tResync 0x355#11 = true ∧ tInData 0x355#11 ≠ 0x0F#8) ∧
      (tRst 0x20F#11 = false ∧ tResync 0x20F#11 = true ∧ tInValid 0x20F#11 = false) ∧ tRst 0x70F#11 = true ∧
      (∃ t, exec (decodeT 0x30F#11) almost = .next t) ∧ (∃ t, exec (decodeT 0x355#11) almost = .next t) ∧
      (∃ t, exec (decodeT 0x20F#11) almost = .next t) ∧ ∃ t, exec (decodeT 0x70F#11) almost = .next t :=
  ⟨by decide, by decide, by decide, by decide, ⟨_, rfl⟩, ⟨_, rfl⟩, ⟨_, rfl⟩, _, rfl⟩
theorem witness_ResultIsPresentForOneStep :
    ∃ t u, exec (decodeT 0x100#11) almost = .next t ∧ t.result.isSome = true ∧
      exec (decodeT 0x10F#11) t = .next u := ⟨_, _, rfl, by decide, rfl⟩
theorem witness_ErrorLeavesNoTrace :
    ∃ t, exec (.feed 0xFF#8) almost = .next t ∧
      t.result = some (fv 0x03 0xFF, .err (.invalidFooter 0xFF#8)) ∧ State.reset.sync = .awaitingHeader :=
  ⟨_, rfl, by decide, rfl⟩

/-- The Reading(24) state of V9 meets the invariant, so the invariant is not about idle states only. -/
theorem almost_inv : MachineInv almost := by
  refine ⟨by decide, ?_, ?_, rfl⟩
  · intro n h
    have h24 := n.le_24
    refine ⟨by decide, fun a ha => ?_⟩
    have hall : ∀ a : Fin 24, (Memory.lookup almost.buf a.val).isSome = true := by decide
    exact hall ⟨a, by omega⟩
  · intro f r h
    cases h

theorem witness_StepKeepsInvariant :
    MachineInv (almost.offer (.t 0x100#11)) ∧ ∃ t, step (almost.offer (.t 0x100#11)) = .next t ∧
      t.result.isSome = true :=
  ⟨⟨almost_inv.bufForm, almost_inv.held, almost_inv.port, almost_inv.enc⟩, _, rfl, by decide⟩
theorem witness_CntEncodesTheStates :
    25 ≤ (25#5).toNat ∧ 25 ≤ (31#5).toNat ∧ SyncState.ofCnt 24#5 = some (.reading Position.last) ∧
      SyncState.ofCnt 0#5 = some .awaitingHeader := by decide
theorem witness_BytesLandInFeedOrder :
    State.reset.sync = .awaitingHeader ∧ (List.replicate 24 (0x0F#8 : Byte)).length ≤ 24 ∧
      (List.replicate 23 (0x0F#8 : Byte)).length ≤ 23 := by decide
theorem witness_FrameAfterResyncGivesOneResult : fv1[0] = 0x0F#8 := by decide

/-- Two states that differ in a stale byte and in E, and agree in meaning. -/
theorem witness_StaleBytesAreNeverObservable :
    SameMeaning (readingState Position.first [0x0F, 0x01]) { readingState Position.first [0x0F] with encIn := 1#180 } := by
  refine ⟨rfl, fun n h a ha => ?_⟩
  have hn : n = Position.first := by injection h.symm
  subst hn
  have h0 : a = 0 := Fin.ext (Nat.lt_one_iff.mp ha)
  subst h0
  decide

/-- The clause about enc_frame: two states that differ in a stale byte only. -/
theorem witness_StaleBytesAreNeverObservable_enc :
    SameMeaning (readingState Position.first [0x0F, 0x01]) (readingState Position.first [0x0F]) ∧
      (readingState Position.first [0x0F, 0x01]).encIn = (readingState Position.first [0x0F]).encIn ∧
      (readingState Position.first [0x0F, 0x01]).encOut = (readingState Position.first [0x0F]).encOut := by
  refine ⟨⟨rfl, fun n h a ha => ?_⟩, rfl, rfl⟩
  have hn : n = Position.first := by injection h.symm
  subst hn
  have h0 : a = 0 := Fin.ext (Nat.lt_one_iff.mp ha)
  subst h0
  decide
theorem witness_MachineRunsTheHostsList : State.reset.pending = [] := rfl
theorem witness_FalseLockCanLastForEver : State.reset.sync = .awaitingHeader := rfl
theorem witness_ValidateChecksFooterThenFlags :
    (¬ ((fv 0x13 0x05)[24] = 0x00#8 ∨ (fv 0x13 0x05)[24] = 0x04#8 ∨ (fv 0x13 0x05)[24] = 0x14#8 ∨
      (fv 0x13 0x05)[24] = 0x24#8 ∨ (fv 0x13 0x05)[24] = 0x34#8)) ∧
    ((fv 0x0F 0x34)[24] = 0x34#8 ∧ (fv 0x0F 0x34)[23].toNat < 16) ∧
    ((fv 0x10 0x00)[24] = 0x00#8 ∧ 16 ≤ (fv 0x10 0x00)[23].toNat) := by decide
theorem witness_ValidateIgnoresPayload :
    (fv 0x0F 0x04)[24] = ((fv 0x00 0x04).set 1 0xFF#8)[24] ∧
      (fv 0x0F 0x04)[23] >>> 4 = ((fv 0x00 0x04).set 1 0xFF#8)[23] >>> 4 := by decide
/-- The clause of equal results: two frames with the flag byte 0x13 that differ in header and payload. -/
theorem witness_ValidateIgnoresPayload_equal :
    (fv 0x13 0x04)[23] = (((fv 0x13 0x04).set 0 0x00#8).set 22 0xFF#8)[23] ∧
      (fv 0x13 0x04)[24] = (((fv 0x13 0x04).set 0 0x00#8).set 22 0xFF#8)[24] := by decide
theorem witness_PayloadBitOrder : 175 < 176 ∧ 10 < 11 := by decide
/-- Channel 2 reads bytes 3 to 5; two frames that agree there and differ in byte 6. -/
theorem witness_ChannelSpansTwoOrThreeBytes :
    (∀ k : Fin 25, 1 + 11 * 2 / 8 ≤ k.val → k.val ≤ 1 + (11 * 2 + 10) / 8 → fv1[k] = (fv1.set 6 0#8)[k]) ∧
      1 + 11 * 2 / 8 ≤ 3 ∧ 5 ≤ 1 + (11 * 2 + 10) / 8 := by decide
theorem witness_EncodeDrivesEncFrame :
    1 ≤ (1 : Fin 25).val ∧ (1 : Fin 25).val ≤ 22 ∧ 1 ≤ (22 : Fin 25).val ∧ (22 : Fin 25).val ≤ 22 := by decide
/-- FV1, and V16. -/
theorem witness_EncodeOfDecodedFrame :
    (fv1[0] = 0x0F#8 ∧ validateFrame fv1 = none ∧ fv1[24] = 0x00#8) ∧
      ((fv 0x03 0x14)[0] = 0x0F#8 ∧ validateFrame (fv 0x03 0x14) = none ∧ (fv 0x03 0x14)[24] ≠ 0x00#8) := by decide
theorem witness_EncFrameIsEncodeInEveryStep :
    ∃ t, step (almost.offer (.t 0x10F#11)) = .next t ∧ ∃ w ws, (almost.offer (.t 0x10F#11)).pending = .t w :: ws :=
  ⟨_, rfl, _, _, rfl⟩
theorem witness_ResultBundleOfCompletedFrame :
    (¬ ((fv 0x00 0x44)[24] = 0x00#8 ∨ (fv 0x00 0x44)[24] = 0x04#8 ∨ (fv 0x00 0x44)[24] = 0x14#8 ∨
      (fv 0x00 0x44)[24] = 0x24#8 ∨ (fv 0x00 0x44)[24] = 0x34#8)) ∧
    ((fv 0xF0 0x04)[24] = 0x04#8 ∧ 16 ≤ (fv 0xF0 0x04)[23].toNat) ∧
    ((fv 0x00 0x24)[24] = 0x24#8 ∧ (fv 0x00 0x24)[23].toNat < 16) := by decide
theorem witness_AssemblerLinesEncode :
    255 < 256 ∧ (∀ b ∈ [0, 255], b < 256) ∧ (List.replicate 16 2047).length = 16 ∧
      (∀ c ∈ List.replicate 16 2047, c ≤ 2047) ∧ 15 < 16 := by decide
theorem witness_InstancesShareNothing :
    (⟨State.reset, [almost.offer (.t 0x100#11)]⟩ : Platform).inst 1 = some (almost.offer (.t 0x100#11)) ∧
      ∃ t, step (almost.offer (.t 0x100#11)) = .next t := ⟨rfl, _, rfl⟩

end Sys2Proof.Tests
end

section
/-! PROOF. The instances of a platform (00_scope.md R6): the states are one list, `setInst` writes one place of it, and
a step of instance k is one such write. -/

namespace Sys2Proof.Machine

/-- Writing instance k writes place k of the list of states. -/
theorem Platform.states_setInst (p : Platform) (k : Nat) (s : State) :
    (p.setInst k s).first :: (p.setInst k s).others = (p.first :: p.others).set k s := by
  cases k with
  | zero => rfl
  | succ k => rfl

theorem Platform.count_eq_length (p : Platform) : p.count = (p.first :: p.others).length := rfl

@[simp] theorem Platform.one_le_count (p : Platform) : 1 ≤ p.count := Nat.le_add_left 1 _

@[simp] theorem Platform.inst_isSome (p : Platform) (k : Nat) : (p.inst k).isSome = true ↔ k < p.count := by
  rw [Platform.inst, isSome_getElem?, p.count_eq_length]

@[simp] theorem Platform.count_setInst (p : Platform) (k : Nat) (s : State) : (p.setInst k s).count = p.count := by
  simp only [Platform.count_eq_length, Platform.states_setInst, List.length_set]

theorem Platform.inst_setInst_self {p : Platform} {k : Nat} (hk : k < p.count) (s : State) :
    (p.setInst k s).inst k = some s := by
  rw [Platform.inst, Platform.states_setInst]
  exact List.getElem?_set_self hk

theorem Platform.inst_setInst_of_ne {j k : Nat} (hjk : j ≠ k) (p : Platform) (s : State) :
    (p.setInst k s).inst j = p.inst j := by
  rw [Platform.inst, Platform.states_setInst]
  exact List.getElem?_set_ne hjk.symm

/-- A platform's step of k is the own step of instance k, with its answer written back to k. -/
theorem Platform.stepAt_of_next {p : Platform} {k : Nat} {s t : State} (hs : p.inst k = some s)
    (ht : step s = .next t) : p.stepAt k = some (.next (p.setInst k t)) := by
  simp only [Platform.stepAt, hs, Option.map_some, ht]

/-- Settles O53: the step of k is a write of place k in the list of states, which keeps its length and every other
place. -/
theorem instancesShareNothing : Obligations.InstancesShareNothing := by
  intro p k
  refine ⟨p.one_le_count, (p.inst_isSome k).symm, fun s t hs ht => ?_⟩
  have hk : k < p.count := (p.inst_isSome k).1 (Option.isSome_of_eq_some hs)
  exact ⟨p.setInst k t, Platform.stepAt_of_next hs ht, p.count_setInst k t, Platform.inst_setInst_self hk t,
    fun _ hj => Platform.inst_setInst_of_ne hj p t⟩

end Sys2Proof.Machine
end

section
/-! PROOF. The state after reset (10_state.md R32), and noninterference of the stale bytes of BUF (R25): states that
agree in `SameMeaning` go on agreeing under every operation, and a SYNC step presents the same result in both. -/

namespace Sys2Proof.Machine

@[simp] theorem feedByte_encIn (b : Byte) (s : State) : (feedByte b s).encIn = s.encIn := by
  obtain ⟨-, -, h⟩ | ⟨-, -, h⟩ | ⟨_, _, -, h⟩ | ⟨_, -, -, h⟩ := feedByte_cases b s <;> rw [h] <;> rfl

@[simp] theorem feedByte_encOut (b : Byte) (s : State) : (feedByte b s).encOut = encodeFrame s.encIn := by
  obtain ⟨-, -, h⟩ | ⟨-, -, h⟩ | ⟨_, _, -, h⟩ | ⟨_, -, -, h⟩ := feedByte_cases b s <;> rw [h] <;> rfl

/-- enc_frame is ENCODE(E) after every operation (30_encoding.md R66). -/
theorem after_encOut (i : Instr) (s : State) : (after i s).encOut = encodeFrame (after i s).encIn := by
  cases i <;> simp [after]

/-- E after an operation is a function of E before it. -/
theorem after_encIn_congr (i : Instr) {s t : State} (h : s.encIn = t.encIn) :
    (after i s).encIn = (after i t).encIn := by
  cases i <;> simp [after, h]

/-- No T word selects ENCODE (30_encoding.md R61). -/
theorem decodeT_ne_encode (w : TWord) (p : Packet) : decodeT w ≠ .encode p := by
  unfold decodeT
  split <;> exact Instr.noConfusion

/-- Writing one byte to both buffers makes them agree there and keeps their agreement elsewhere. -/
theorem State.bufByte_writeBuf_congr {s t : State} {a c : Fin 25} (b : Byte)
    (h : a ≠ c → s.bufByte a = t.bufByte a) : (s.writeBuf c b).bufByte a = (t.writeBuf c b).bufByte a := by
  by_cases hac : a = c
  · simp [hac]
  · simpa [State.bufByte_writeBuf_ne _ b hac] using h hac

/-- Settles O26: each clause reads a field of the reset state (10_state.md R32). -/
theorem stateAfterReset : Obligations.StateAfterReset :=
  ⟨rfl, rfl, rfl, rfl, rfl⟩

end Sys2Proof.Machine

namespace Sys2Proof.Safety

open Sys2Proof.Machine

theorem sameMeaning_of_awaiting {s t : State} (hs : s.sync = .awaitingHeader) (ht : t.sync = .awaitingHeader) :
    SameMeaning s t :=
  ⟨hs.trans ht.symm, fun _ hn => nomatch hs.symm.trans hn⟩

theorem sameMeaning_of_reading {s t : State} {n : Position} (hs : s.sync = .reading n) (ht : t.sync = .reading n)
    (h : ∀ a : Fin 25, a.val < n.count → s.bufByte a = t.bufByte a) : SameMeaning s t := by
  refine ⟨hs.trans ht.symm, fun m hm => ?_⟩
  obtain rfl : n = m := SyncState.reading.inj (hs.symm.trans hm)
  exact h

/-- In Reading(24) the meaningful bytes are the whole frame up to the completing byte. -/
theorem SameMeaning.frameWith_eq {s t : State} {n : Position} (h : SameMeaning s t) (hs : s.sync = .reading n)
    (hn : n.count = 24) (b : Byte) : s.frameWith b = t.frameWith b := by
  obtain ⟨-, hbuf⟩ := h
  ext k hk : 1
  by_cases hk24 : k = 24
  · subst hk24
    rw [State.frameWith_last, State.frameWith_last]
  · have hlt : k < 24 := by omega
    rw [State.frameWith_of_lt s b k hlt, State.frameWith_of_lt t b k hlt]
    exact hbuf n hs _ (hn ▸ hlt)

/-- A byte fed to both states keeps their agreement and gives the same result (40_synchronizer.md R102 to R104): the
byte written is the one that becomes meaningful. -/
theorem SameMeaning.feed {s t : State} (h : SameMeaning s t) (b : Byte) :
    SameMeaning (feedByte b s) (feedByte b t) ∧ (feedByte b s).result = (feedByte b t).result := by
  have hsync : t.sync = s.sync := h.1.symm
  obtain ⟨hs, rfl, hf⟩ | ⟨hs, hb, hf⟩ | ⟨n, hn, hs, hf⟩ | ⟨n, hn, hs, hf⟩ := feedByte_cases b s
  · rw [hf, feedByte_awaiting_header (hsync.trans hs)]
    refine ⟨sameMeaning_of_reading rfl rfl fun a ha => State.bufByte_writeBuf_congr _ fun hne => ?_, rfl⟩
    exact absurd (Fin.ext (Nat.lt_one_iff.1 ha)) hne
  · rw [hf, feedByte_awaiting_other (hsync.trans hs) hb]
    exact ⟨h, rfl⟩
  · rw [hf, feedByte_reading b (hsync.trans hs) hn]
    refine ⟨sameMeaning_of_reading rfl rfl fun a ha => State.bufByte_writeBuf_congr _ fun hne => ?_, rfl⟩
    exact h.2 n hs a (Nat.lt_of_le_of_ne (Nat.lt_succ_iff.1 ha) (Fin.val_ne_of_ne hne))
  · rw [hf, feedByte_last b (hsync.trans hs) hn, h.frameWith_eq hs hn b]
    exact ⟨sameMeaning_of_awaiting rfl rfl, rfl⟩

/-- Every operation keeps the agreement. -/
theorem SameMeaning.after_same {s t : State} (h : SameMeaning s t) (i : Instr) :
    SameMeaning (after i s) (after i t) := by
  cases i with
  | reset => exact sameMeaning_of_awaiting rfl rfl
  | idle => exact h
  | feed b => exact (h.feed b).1
  | resync => exact sameMeaning_of_awaiting rfl rfl
  | resyncFeed b => exact ((sameMeaning_of_awaiting rfl rfl).feed b).1
  | encode p => exact h

/-- Every operation of SYNC presents the same result in both states. -/
theorem SameMeaning.after_result_eq {s t : State} (h : SameMeaning s t) {i : Instr} (hi : ∀ p, i ≠ .encode p) :
    (after i s).result = (after i t).result := by
  cases i with
  | reset => rfl
  | idle => rfl
  | feed b => exact (h.feed b).2
  | resync => rfl
  | resyncFeed b => exact ((sameMeaning_of_awaiting rfl rfl).feed b).2
  | encode p => exact absurd rfl (hi p)

/-- A port word gives the same emission in both states; an E word gives none, whatever result is held. -/
theorem SameMeaning.emission_eq {s t : State} (h : SameMeaning s t) (k : Nat) (w : PortWord) :
    emission k w (after (decodeWord w) s) = emission k w (after (decodeWord w) t) := by
  cases w with
  | t w =>
    have hres := h.after_result_eq (decodeT_ne_encode w)
    simp only [emission, decodeWord, hres]
  | e e => rfl

/-- Settles O34, by induction on the words: each keeps the agreement and gives the same emission, and enc_frame is
after each a function of E. -/
theorem staleBytesAreNeverObservable : Obligations.StaleBytesAreNeverObservable := by
  intro k ws
  induction ws generalizing k with
  | nil => exact fun s t h => ⟨[], s, t, rfl, rfl, h, And.intro⟩
  | cons w ws ih =>
    intro s t h
    obtain ⟨es, s', t', hs, ht, h', henc⟩ := ih (nextIndex k w) _ _ (h.after_same (decodeWord w))
    refine ⟨emission k w (after (decodeWord w) s) ++ es, s', t', ?_, ?_, h', fun hIn _ => ?_⟩
    · rw [run_cons, hs]
      rfl
    · rw [run_cons, ht, h.emission_eq k w]
      rfl
    · have hIn' := after_encIn_congr (decodeWord w) hIn
      exact henc hIn' (by rw [after_encOut, after_encOut, hIn'])

end Sys2Proof.Safety
end

section
/-! PROOF. What feeding bytes does to BUF (20_memory.md R45; 40_synchronizer.md R103), and that a resync takes effect
before the byte of its step (R51). -/

namespace Sys2Proof.Machine

/-- A byte is taken alike whatever the output ports hold. -/
@[simp] theorem feedByte_present (b : Byte) (s : State) (r : Option (Frame × FrameResult)) :
    feedByte b (s.present r) = feedByte b s := by
  obtain ⟨hs, rfl, h⟩ | ⟨hs, hb, h⟩ | ⟨n, hn, hs, h⟩ | ⟨n, hn, hs, h⟩ := feedByte_cases b s
  · rw [h, feedByte_awaiting_header (s := s.present r) hs]; rfl
  · rw [h, feedByte_awaiting_other (s := s.present r) hs hb]; rfl
  · rw [h, feedByte_reading (s := s.present r) b hs hn]; rfl
  · rw [h, feedByte_last (s := s.present r) b hs hn]; rfl

/-- Settles O19: RESYNC leaves S = AwaitingHeader and fresh output ports, and the byte is taken whatever these hold. -/
theorem resyncFeedIsResyncThenFeed : Obligations.ResyncFeedIsResyncThenFeed := by
  intro s t b h
  rw [exec_eq_after] at h
  cases h
  simp [exec_eq_after, after]

/-! ### Runs of FEEDS -/

theorem decodeWord_encode_feed (b : Byte) : decodeWord (encode (.feed b)) = .feed b := by
  revert b
  decide

/-- A run of FEEDS takes the first byte, then the others. -/
theorem run_feeds_cons (k : Nat) (b : Byte) (bs : List Byte) (s : State) :
    run k (feeds (b :: bs)) s = (run (k + 1) (feeds bs) (feedByte b s)).map fun r =>
      (emission k (encode (.feed b)) (feedByte b s) ++ r.1, r.2) := by
  change run k (encode (.feed b) :: feeds bs) s = _
  rw [run_cons, decodeWord_encode_feed]
  rfl

theorem run_feeds_cons_of_result_none (k : Nat) {b : Byte} (bs : List Byte) {s : State}
    (h : (feedByte b s).result = none) :
    run k (feeds (b :: bs)) s = run (k + 1) (feeds bs) (feedByte b s) := by
  have hem : emission k (encode (.feed b)) (feedByte b s) = [] := by simp [emission, encode, h]
  simp [run_feeds_cons, hem]

/-- Inside a frame the byte goes to BUF[n], the completing byte too (40_synchronizer.md R103, R104). -/
theorem bufByte_feedByte_reading {s : State} {n : Position} (hs : s.sync = .reading n) (b : Byte) (a : Fin 25) :
    (feedByte b s).bufByte a = (s.writeBuf n.addr b).bufByte a := by
  rcases Nat.lt_or_eq_of_le n.le_24 with hn | hn
  · simp [feedByte_reading b hs hn]
  · have haddr : n.addr = 24 := Fin.ext hn
    simp [feedByte_last b hs hn, haddr]

/-- BUF of `t` holds `bs` from address `n` on, and below `n` what it held in `s`. -/
def HoldsFrom (s t : State) (n : Nat) (bs : List Byte) : Prop :=
  (∀ a : Fin 25, a.val < n → t.bufByte a = s.bufByte a) ∧
    ∀ (k : Nat) (h : k < bs.length) (h' : k + n < 25), t.bufByte ⟨k + n, h'⟩ = bs[k]

theorem HoldsFrom.nil (s : State) (n : Nat) : HoldsFrom s s n [] :=
  ⟨fun _ _ => rfl, fun _ h => nomatch h⟩

/-- The first byte goes to BUF[n], and the bytes after it go above. -/
theorem HoldsFrom.cons {s t : State} {n : Position} {b : Byte} {bs : List Byte} (hs : s.sync = .reading n)
    (h : HoldsFrom (feedByte b s) t (n.count + 1) bs) : HoldsFrom s t n.count (b :: bs) := by
  obtain ⟨hlow, hbytes⟩ := h
  constructor
  · intro a ha
    have hne : a ≠ n.addr := Fin.ne_of_val_ne (Nat.ne_of_lt ha)
    rw [hlow a (Nat.lt_succ_of_lt ha), bufByte_feedByte_reading hs, State.bufByte_writeBuf_ne _ _ hne]
  · intro k hk hk'
    cases k with
    | zero =>
      have haddr : (⟨0 + n.count, hk'⟩ : Fin 25) = n.addr := Fin.ext (Nat.zero_add _)
      rw [haddr, hlow _ (Nat.lt_succ_self _), bufByte_feedByte_reading hs, State.bufByte_writeBuf_same]
      rfl
    | succ k =>
      have haddr : (⟨k + 1 + n.count, hk'⟩ : Fin 25) = ⟨k + (n.count + 1), by omega⟩ := Fin.ext (by simp only; omega)
      rw [haddr, hbytes k (Nat.lt_of_succ_lt_succ hk)]
      rfl

/-- Bytes fed inside a frame and up to its end land in order from BUF[n] on; short of the end they emit nothing and S
counts them (20_memory.md R45; 40_synchronizer.md R103). -/
theorem run_feeds_of_reading (bs : List Byte) (k : Nat) {s : State} {n : Position} (hs : s.sync = .reading n)
    (hlen : n.count + bs.length ≤ 25) :
    ∃ es t, run k (feeds bs) s = some (es, t) ∧ HoldsFrom s t n.count bs ∧
      (n.count + bs.length ≤ 24 → es = [] ∧ ∃ m : Position, t.sync = .reading m ∧ m.count = n.count + bs.length) := by
  induction bs generalizing k s n with
  | nil => exact ⟨[], s, rfl, .nil s _, fun _ => ⟨rfl, n, hs, rfl⟩⟩
  | cons b bs ih =>
    rw [List.length_cons] at hlen ⊢
    rcases Nat.lt_or_eq_of_le n.le_24 with hn | hn
    · have hf := feedByte_reading b hs hn
      have hs' : (feedByte b s).sync = .reading (n.next hn) := by rw [hf]; rfl
      obtain ⟨es, t, hrun, hbuf, hend⟩ := ih (k + 1) hs' (by rw [Position.next_count]; omega)
      rw [Position.next_count, Nat.add_right_comm, Nat.add_assoc] at hend
      refine ⟨es, t, ?_, hbuf.cons hs, hend⟩
      rw [run_feeds_cons_of_result_none k bs (by rw [hf]; rfl), hrun]
    · obtain rfl : bs = [] := List.length_eq_zero_iff.1 (by omega)
      exact ⟨_, _, run_feeds_cons k b [] s, .cons hs (.nil _ _), fun h => by simp [hn] at h⟩

/-- Settles O31: the header puts SYNC in Reading(1) with 0x0F at BUF[0], and the bytes fed from there land in order. -/
theorem bytesLandInFeedOrder : Obligations.BytesLandInFeedOrder := by
  intro s bs hs hlen
  have hf := feedByte_awaiting_header hs
  have hs' : (feedByte Config.header s).sync = .reading Position.first := by rw [hf]; rfl
  have hres : (feedByte Config.header s).result = none := by rw [hf]; rfl
  have h0 : (feedByte Config.header s).bufByte 0 = Config.header := by simp [hf]
  have hlen' : Position.first.count + bs.length ≤ 25 := by simp only [Position.first]; omega
  obtain ⟨es, t, hrun, ⟨hlow, hbytes⟩, hend⟩ := run_feeds_of_reading bs 2 hs' hlen'
  refine ⟨es, t, ?_, (hlow 0 Nat.one_pos).trans h0, hbytes, fun h => ?_⟩
  · exact (run_feeds_cons_of_result_none 1 bs hres).trans hrun
  · have hcount : Position.first.count + bs.length = bs.length + 1 := Nat.add_comm _ _
    rw [hcount] at hend
    exact hend (Nat.succ_le_succ h)

end Sys2Proof.Machine
end

section
/-! PROOF. Where the bits of the payload and of the channels stand in a frame (20_memory.md R46), and the bytes a channel
reads (R47). -/

namespace Sys2Proof.Machine

/-- Bit j of payload byte k: each of the k bytes below it, taken off the end of the payload, lowers the bit's place by 8
(30_encoding.md R68). -/
theorem payload_getLsbD_of_byte (f : Frame) {k j : Nat} (hk : k < 22) (hj : j < 8) :
    (payload f).getLsbD (j + 8 * k) = f[k + 1].getLsbD j := by
  have hbelow : ∀ d, 8 ≤ d → ¬ j + d < 8 := by omega
  simp only [payload, BitVec.getLsbD_append]
  interval_cases k <;> simp [hj, hbelow]

/-- Payload bit p is bit p mod 8 of byte 1 + p div 8 (20_memory.md R46). -/
theorem payload_getLsbD (f : Frame) {p : Nat} (h : p < 176) :
    (payload f).getLsbD p = (f[1 + p / 8]'(by omega)).getLsbD (p % 8) := by
  have hbit := payload_getLsbD_of_byte f (k := p / 8) (by omega) (Nat.mod_lt p (by decide))
  rw [Nat.mod_add_div] at hbit
  simp only [hbit, Nat.add_comm 1]

theorem decodeFrame_ch (f : Frame) (i : Fin 16) : (decodeFrame f).ch[i] = channelField (payload f) i := by
  simp [decodeFrame]

theorem channelField_getLsbD (p : BitVec 176) (i : Fin 16) {j : Nat} (hj : j < 11) :
    (channelField p i).getLsbD j = p.getLsbD (11 * i.val + j) := by
  simp [channelField, hj]

/-- Bit j of channel i in the bytes of the frame. -/
theorem decodeFrame_ch_getLsbD (f : Frame) (i : Fin 16) {j : Nat} (hj : j < 11) :
    ((decodeFrame f).ch[i]).getLsbD j =
      (f[1 + (11 * i.val + j) / 8]'(by omega)).getLsbD ((11 * i.val + j) % 8) := by
  rw [decodeFrame_ch, channelField_getLsbD _ i hj, payload_getLsbD f (by omega)]

/-- Settles O40: the first clause is the payload lemma, and channel i is the field of the payload from bit 11i on. -/
theorem payloadBitOrder : Obligations.PayloadBitOrder := by
  refine ⟨fun f p h => payload_getLsbD f h, fun f i j hj => ?_⟩
  rw [decodeFrame_ch, channelField_getLsbD _ i hj]

/-- Frames that agree on the bytes from the first to the last bit of channel i have the same channel i. -/
theorem decodeFrame_ch_congr {f g : Frame} (i : Fin 16)
    (h : ∀ k : Fin 25, 1 + 11 * i.val / 8 ≤ k.val → k.val ≤ 1 + (11 * i.val + 10) / 8 → f[k] = g[k]) :
    (decodeFrame f).ch[i] = (decodeFrame g).ch[i] := by
  refine BitVec.eq_of_getLsbD_eq fun j hj => ?_
  have hbyte := h ⟨1 + (11 * i.val + j) / 8, by omega⟩ (by simp only; omega) (by simp only; omega)
  rw [decodeFrame_ch_getLsbD f i hj, decodeFrame_ch_getLsbD g i hj]
  exact congrArg (fun b : Byte => b.getLsbD ((11 * i.val + j) % 8)) hbyte

/-- Every byte in the span of channel i holds one of its bits. -/
theorem exists_bit_of_span {i k : Nat} (hlo : 1 + 11 * i / 8 ≤ k) (hhi : k ≤ 1 + (11 * i + 10) / 8) :
    ∃ j < 11, 1 + (11 * i + j) / 8 = k :=
  ⟨8 * (k - 1) - 11 * i, by omega, by omega⟩

/-- The frame of 25 zero bytes. -/
def zeroFrame : Frame := Vector.replicate 25 0#8

/-- A byte that holds a bit of channel i changes it: all ones there for all zeros. -/
theorem decodeFrame_ch_ne_of_bit {i : Fin 16} {j : Nat} (hj : j < 11) {k : Fin 25}
    (hk : 1 + (11 * i.val + j) / 8 = k.val) :
    (decodeFrame zeroFrame).ch[i] ≠ (decodeFrame (zeroFrame.set k.val 0xFF#8)).ch[i] := by
  intro h
  have hones : ∀ m < 8, (0xFF#8).getLsbD m = true := by decide
  have hmod := hones ((11 * i.val + j) % 8) (Nat.mod_lt _ (by decide))
  have hbit := congrArg (fun c : Chan => c.getLsbD j) h
  simp only [decodeFrame_ch_getLsbD _ i hj, hk, Vector.getElem_set_self, hmod] at hbit
  simp [zeroFrame] at hbit

/-- Settles O43: the bit of a channel names its byte, so the channel reads the span of its bits and every byte of it;
how many these are is arithmetic in i. -/
theorem channelSpansTwoOrThreeBytes : Obligations.ChannelSpansTwoOrThreeBytes := by
  intro i lo hi
  refine ⟨fun f g h => decodeFrame_ch_congr i h, fun k hlo hhi => ?_, by omega, by omega, ?_⟩
  · obtain ⟨j, hj, hk⟩ := exists_bit_of_span hlo hhi
    refine ⟨zeroFrame, zeroFrame.set k.val 0xFF#8, fun c hc => ?_, decodeFrame_ch_ne_of_bit hj hk⟩
    exact (Vector.getElem_set_ne k.isLt c.isLt (Fin.val_ne_of_ne hc.symm)).symm
  · revert i
    decide

end Sys2Proof.Machine
end

section
/-! PROOF. The fields of T without effect (30_encoding.md R62): the operation is a function of the other fields, and the
canonical words hold 0 in them. -/

namespace Sys2Proof.Machine

theorem decodeT_of_rst {w : TWord} (hr : tRst w = true) : decodeT w = .reset := by
  simp [decodeT, hr]

/-- Without rst and without a byte, resync alone selects the operation. -/
theorem decodeT_of_no_byte {w : TWord} (hr : tRst w = false) (hv : tInValid w = false) :
    decodeT w = if tResync w = true then .resync else .idle := by
  cases h : tResync w <;> simp [decodeT, hr, hv, h]

/-- A byte put into in_data leaves the bits above it as they are. -/
theorem getLsbD_or_byte_of_le (c : TWord) (b : Byte) {j : Nat} (hj : 8 ≤ j) :
    (c ||| b.setWidth 11).getLsbD j = c.getLsbD j := by
  simp [BitVec.getLsbD_setWidth, BitVec.getLsbD_of_ge b j hj]

@[simp] theorem tRst_or_byte (c : TWord) (b : Byte) : tRst (c ||| b.setWidth 11) = tRst c :=
  getLsbD_or_byte_of_le c b (by decide)

@[simp] theorem tInValid_or_byte (c : TWord) (b : Byte) : tInValid (c ||| b.setWidth 11) = tInValid c :=
  getLsbD_or_byte_of_le c b (by decide)

/-- The canonical word of an operation holds 0 in its fields without effect: the words without a byte are constants,
and those with a byte have in_valid = 1 and rst = 0. -/
theorem encode_zero_in_ignored_fields {i : Instr} {w : TWord} (h : encode i = .t w) :
    (tInValid w = false ∨ tRst w = true → tInData w = 0#8) ∧
      (tRst w = true → tResync w = false ∧ tInValid w = false) := by
  have hword : ∀ {v : TWord}, encode i = .t v → w = v := fun hv => PortWord.t.inj (h.symm.trans hv)
  cases i with
  | reset => rw [hword rfl]; decide
  | idle => rw [hword rfl]; decide
  | resync => rw [hword rfl]; decide
  | feed b =>
    have hr : tRst 0x100#11 = false := by decide
    have hv : tInValid 0x100#11 = true := by decide
    simp [hword rfl, hr, hv]
  | resyncFeed b =>
    have hr : tRst 0x300#11 = false := by decide
    have hv : tInValid 0x300#11 = true := by decide
    simp [hword rfl, hr, hv]
  | encode p => cases h

/-- Settles O4: words that differ only in fields without effect decode to the same operation, and a canonical word
holds 0 there. -/
theorem ignoredFieldsHaveNoEffect : Obligations.IgnoredFieldsHaveNoEffect := by
  refine ⟨fun w v s hw hv => ?_, fun w v s hwr hwv hvr hvv hresync => ?_, fun _ _ => encode_zero_in_ignored_fields⟩
  · rw [decodeT_of_rst hw, decodeT_of_rst hv]
  · rw [decodeT_of_no_byte hwr hwv, decodeT_of_no_byte hvr hvv, hresync]

end Sys2Proof.Machine
end

section
/-! PROOF. The result bundle of a completed frame (30_encoding.md R63, R65), by the three outcomes of VALIDATE
(41_validator.md R131 to R133). -/

namespace Sys2Proof.Machine

theorem validateFrame_of_footer_illegal {f : Frame} (h : footerLegal (footerByte f) = false) :
    validateFrame f = some (.invalidFooter (footerByte f)) := by
  simp [validateFrame, h]

theorem validateFrame_of_flags_illegal {f : Frame} (h : footerLegal (footerByte f) = true)
    (hflags : flagsLegal (flagByte f) = false) : validateFrame f = some (.invalidFlags (flagByte f)) := by
  simp [validateFrame, h, hflags]

theorem validateFrame_of_legal {f : Frame} (h : footerLegal (footerByte f) = true)
    (hflags : flagsLegal (flagByte f) = true) : validateFrame f = none := by
  simp [validateFrame, h, hflags]

theorem complete_of_error {f : Frame} {e : ParserError} (h : validateFrame f = some e) : complete f = .err e := by
  simp [complete, h]

theorem complete_of_pass {f : Frame} (h : validateFrame f = none) : complete f = .ok (decodeFrame f) := by
  simp [complete, h]

theorem flagsLegal_eq_false_iff (b : Byte) : flagsLegal b = false ↔ 16 ≤ b.toNat := by
  rw [← Bool.not_eq_true, flagsLegal_iff, Nat.not_lt]

/-- Whatever the result, it is valid and carries the raw frame. -/
theorem bundleOf_some (f : Frame) (r : FrameResult) :
    (bundleOf (some (f, r))).resValid = true ∧ (bundleOf (some (f, r))).resRaw = some (flattenFrame f) := by
  cases r <;> exact ⟨rfl, rfl⟩

/-- Settles O50: each clause is one outcome of VALIDATE, and the bundle of that outcome is the table of R63. -/
theorem resultBundleOfCompletedFrame : Obligations.ResultBundleOfCompletedFrame := by
  refine ⟨rfl, ?_⟩
  intro f B legal
  have hfooter : footerLegal (footerByte f) = true ↔ legal := footerLegal_iff f[24]
  obtain ⟨hvalid, hraw⟩ := bundleOf_some f (complete f)
  refine ⟨hvalid, hraw, fun hl => ?_, fun hl hflags => ?_, fun hl hflags => ?_⟩
  · have hc := complete_of_error (validateFrame_of_footer_illegal (Bool.eq_false_iff.2 (mt hfooter.1 hl)))
    simp only [B, hc]
    exact ⟨rfl, rfl, rfl⟩
  · have hc := complete_of_error
      (validateFrame_of_flags_illegal (hfooter.2 hl) ((flagsLegal_eq_false_iff f[23]).2 hflags))
    simp only [B, hc]
    exact ⟨rfl, rfl, rfl⟩
  · have hc := complete_of_pass (validateFrame_of_legal (hfooter.2 hl) ((flagsLegal_iff f[23]).2 hflags))
    simp only [B, hc]
    exact ⟨rfl, rfl⟩

end Sys2Proof.Machine
end

section
/-! PROOF. FEED, RESYNC, RESYNC_FEED and RESET one step at a time, each with its frame (40_synchronizer.md R102 to R105,
R108 to R110), and runs of IDLE steps (R107). -/

namespace Sys2Proof.Safety

open Sys2Proof.Machine

theorem KeepsBuf.refl (s : State) : KeepsBuf s s := ⟨fun _ => rfl, rfl, rfl, rfl⟩

theorem KeepsBuf.trans {s t u : State} (hst : KeepsBuf s t) (htu : KeepsBuf t u) : KeepsBuf s u := by
  obtain ⟨hbuf, hepoch, hin, hpend⟩ := hst
  obtain ⟨hbuf', hepoch', hin', hpend'⟩ := htu
  exact ⟨fun a => (hbuf' a).trans (hbuf a), hepoch'.trans hepoch, hin'.trans hin, hpend'.trans hpend⟩

theorem keepsBuf_present (s : State) (r : Option (Frame × FrameResult)) : KeepsBuf s (s.present r) :=
  ⟨fun _ => rfl, rfl, rfl, rfl⟩

theorem keepsBuf_setSync (s : State) (v : SyncState) : KeepsBuf s (s.setSync v) :=
  ⟨fun _ => rfl, rfl, rfl, rfl⟩

/-- A write to BUF[a], whatever S and the ports are set to beside it. -/
theorem writesOnly_writeBuf (s : State) (a : Fin 25) (b : Byte) (v : SyncState)
    (r : Option (Frame × FrameResult)) : WritesOnly s (((s.writeBuf a b).setSync v).present r) a b :=
  ⟨s.bufByte_writeBuf_same a b, fun _ hc => s.bufByte_writeBuf_ne b hc, rfl, rfl, rfl⟩

end Sys2Proof.Safety

namespace Sys2Proof.Machine

open Sys2Proof.Safety

/-- A byte taken in AwaitingHeader presents nothing; it starts a frame if it is the header and is discarded if not
(40_synchronizer.md R102). -/
theorem feedByte_of_awaiting {s : State} (hs : s.sync = .awaitingHeader) (b : Byte) :
    (feedByte b s).result = none ∧
      (b = Config.header → (∃ m : Position, (feedByte b s).sync = .reading m ∧ m.count = 1) ∧
        WritesOnly s (feedByte b s) 0 b) ∧
      (b ≠ Config.header → (feedByte b s).sync = .awaitingHeader ∧ KeepsBuf s (feedByte b s)) := by
  by_cases hb : b = Config.header
  · subst hb
    rw [feedByte_awaiting_header hs]
    exact ⟨rfl, fun _ => ⟨⟨Position.first, rfl, rfl⟩, writesOnly_writeBuf s 0 _ _ none⟩, absurd rfl⟩
  · rw [feedByte_awaiting_other hs hb]
    exact ⟨rfl, (absurd · hb), fun _ => ⟨hs, keepsBuf_present s none⟩⟩

/-- Settles O10: the byte is taken in AwaitingHeader. -/
theorem feedAwaitingHeader : Obligations.FeedAwaitingHeader := by
  intro s b hs
  obtain ⟨hres, hheader, hother⟩ := feedByte_of_awaiting hs b
  exact ⟨feedByte b s, exec_eq_after _ s, hres, feedByte_encOut b s, hheader, hother⟩

/-- Settles O11: below Reading(24) the byte is written at the address n and S moves on. -/
theorem feedInsideFrame : Obligations.FeedInsideFrame := by
  intro s b n hs hn
  have hlt : n.count < 24 := Nat.lt_succ_of_le hn
  refine ⟨feedByte b s, exec_eq_after _ s, ?_⟩
  rw [feedByte_reading b hs hlt]
  exact ⟨rfl, rfl, ⟨n.next hlt, rfl, rfl⟩, writesOnly_writeBuf s n.addr b _ none⟩

/-- Settles O12: in Reading(24) the frame is `frameWith` of the completing byte. -/
theorem feedCompletesFrame : Obligations.FeedCompletesFrame := by
  intro s b n hs hn
  refine ⟨feedByte b s, s.frameWith b, exec_eq_after _ s, ?_⟩
  rw [feedByte_last b hs hn]
  exact ⟨rfl, rfl, writesOnly_writeBuf s 24 b _ _, rfl, s.frameWith_last b, fun k => s.frameWith_of_lt b k k.isLt⟩

/-- Settles O13: the two outcomes of VALIDATE. -/
theorem completeValidatesThenDecodes : Obligations.CompleteValidatesThenDecodes :=
  fun _ => ⟨fun _ => complete_of_error, complete_of_pass⟩

@[simp] theorem tResync_or_byte (c : TWord) (b : Byte) : tResync (c ||| b.setWidth 11) = tResync c :=
  getLsbD_or_byte_of_le c b (by decide)

/-- Settles O17: without rst and in_valid the byte in the word has no effect, and RESYNC sets S alone. -/
theorem resyncForcesAwaitingHeader : Obligations.ResyncForcesAwaitingHeader := by
  refine ⟨fun d => ?_, fun s => ⟨_, exec_eq_after .resync s, rfl, ?_, rfl, rfl⟩⟩
  · rw [decodeT_of_no_byte (by rw [tRst_or_byte]; decide) (by rw [tInValid_or_byte]; decide), tResync_or_byte]
    rfl
  · exact (keepsBuf_setSync s .awaitingHeader).trans (keepsBuf_present _ none)

theorem decodeWord_encode_resyncFeed (b : Byte) : decodeWord (encode (.resyncFeed b)) = .resyncFeed b := by
  revert b
  decide

/-- Settles O18: the byte is taken in the AwaitingHeader that the resync leaves, and the resync alone keeps BUF. -/
theorem resyncFeedDropsPartialFrame : Obligations.ResyncFeedDropsPartialFrame := by
  intro s b
  obtain ⟨hres, hheader, hother⟩ := feedByte_of_awaiting (s := s.setSync .awaitingHeader) rfl b
  exact ⟨decodeWord_encode_resyncFeed b, _, exec_eq_after _ s, hres, feedByte_encOut b _, hheader, hother⟩

/-- Settles O20: with rst set the word decodes to RESET, whatever its other fields hold. -/
theorem resetIgnoresEverythingElse : Obligations.ResetIgnoresEverythingElse := by
  intro w s hw
  rw [decodeT_of_rst hw]
  exact ⟨_, exec_eq_after .reset s, exec_eq_after .reset s, rfl, rfl, rfl, rfl, rfl⟩

/-! ### The step that presents a result -/

/-- A byte gives a result exactly in Reading(24) (40_synchronizer.md R102 to R104). -/
theorem feedByte_result_isSome_iff (b : Byte) (s : State) :
    (feedByte b s).result.isSome = true ↔ ∃ n : Position, s.sync = .reading n ∧ n.count = 24 := by
  obtain ⟨hs, -, h⟩ | ⟨hs, -, h⟩ | ⟨n, hn, hs, h⟩ | ⟨n, hn, hs, h⟩ := feedByte_cases b s
  · simp [h, hs]
  · simp [h, hs]
  · simp [h, hs, hn.ne]
  · simp [h, hs, hn]

/-- Without rst and with a byte, resync alone selects the operation. -/
theorem decodeT_of_byte {w : TWord} (hr : tRst w = false) (hv : tInValid w = true) :
    decodeT w = if tResync w = true then .resyncFeed (tInData w) else .feed (tInData w) := by
  cases h : tResync w <;> simp [decodeT, hr, hv, h]

/-- Settles O14, along R100's order: a reset, a step without a byte and a byte after a resync present nothing, and a
byte alone presents a result exactly in Reading(24). -/
theorem resultOnlyInCompletingStep : Obligations.ResultOnlyInCompletingStep := by
  intro w s t h
  rw [exec_eq_after] at h
  cases h
  cases hr : tRst w with
  | true => simp [decodeT_of_rst hr, after]
  | false =>
    cases hv : tInValid w with
    | false =>
      rw [decodeT_of_no_byte hr hv]
      cases tResync w <;> simp [after]
    | true =>
      rw [decodeT_of_byte hr hv]
      cases tResync w <;> simp [after, feedByte_result_isSome_iff]

/-! ### Words that present nothing -/

/-- A word that presents no result adds nothing to the run. -/
theorem run_cons_of_result_none (k : Nat) {w : PortWord} (ws : List PortWord) {s : State}
    (h : (after (decodeWord w) s).result = none) :
    run k (w :: ws) s = run (nextIndex k w) ws (after (decodeWord w) s) := by
  have hem : emission k w (after (decodeWord w) s) = [] := by cases w <;> simp [emission, h]
  simp [run_cons, hem]

/-- Settles O16, by induction on the number of IDLE steps. -/
theorem anyNumberOfIdleStepsKeepsFrame : Obligations.AnyNumberOfIdleStepsKeepsFrame := by
  intro j
  induction j with
  | zero => exact fun k s => ⟨s, rfl, rfl, .refl s⟩
  | succ j ih =>
    intro k s
    obtain ⟨t, hrun, hsync, hkeep⟩ := ih (k + 1) (s.present none)
    exact ⟨t, (run_cons_of_result_none k _ rfl).trans hrun, hsync, (keepsBuf_present s none).trans hkeep⟩

end Sys2Proof.Machine
end

section
/-! PROOF. Runs put together (40_synchronizer.md R111), and a whole frame fed after its header is awaited (R115). -/

namespace Sys2Proof.Machine

/-- A run of two lists of words is the run of the first and, from its last state and step number on, of the second. -/
theorem run_append {k : Nat} {ws vs : List PortWord} {s t u : State} {es ds : List Emission}
    (hws : run k ws s = some (es, t)) (hvs : run (ws.foldl nextIndex k) vs t = some (ds, u)) :
    run k (ws ++ vs) s = some (es ++ ds, u) := by
  induction ws generalizing k s es with
  | nil =>
    cases hws
    exact hvs
  | cons w ws ih =>
    rw [run_cons, Option.map_eq_some_iff] at hws
    obtain ⟨⟨es', t'⟩, hrest, heq⟩ := hws
    cases heq
    rw [List.cons_append, run_cons, ih hrest hvs, List.append_assoc]
    rfl

theorem feeds_append (bs cs : List Byte) : feeds (bs ++ cs) = feeds bs ++ feeds cs := List.map_append

/-- FEEDS takes one step number for each byte (30_encoding.md R74). -/
theorem foldl_nextIndex_feeds (bs : List Byte) (k : Nat) : (feeds bs).foldl nextIndex k = k + bs.length := by
  induction bs generalizing k with
  | nil => rfl
  | cons b bs ih => exact (ih (k + 1)).trans (Nat.add_right_comm k 1 bs.length)

theorem run_feeds_append {k : Nat} {bs cs : List Byte} {s t u : State} {es ds : List Emission}
    (hbs : run k (feeds bs) s = some (es, t)) (hcs : run (k + bs.length) (feeds cs) t = some (ds, u)) :
    run k (feeds (bs ++ cs)) s = some (es ++ ds, u) := by
  rw [feeds_append]
  exact run_append hbs (by rwa [foldl_nextIndex_feeds])

/-- Settles O30: both parts complete, and their runs put together are the run of the whole. -/
theorem feedsMayBeSplitAnywhere : Obligations.FeedsMayBeSplitAnywhere := by
  intro k b c s
  obtain ⟨e, t, hb⟩ := run_completes (feeds b) k s
  obtain ⟨d, u, hc⟩ := run_completes (feeds c) (k + b.length) t
  exact ⟨e, t, d, u, hb, hc, run_feeds_append hb hc⟩

/-! ### A whole frame -/

/-- The completing byte fed alone gives one result, of the frame it completes (40_synchronizer.md R104). -/
theorem run_feeds_last {s : State} {n : Position} (k : Nat) (b : Byte) (hs : s.sync = .reading n)
    (hn : n.count = 24) :
    ∃ t, run k (feeds [b]) s = some ([⟨k, s.frameWith b, complete (s.frameWith b)⟩], t) ∧
      t.sync = .awaitingHeader := by
  refine ⟨feedByte b s, ?_, ?_⟩
  · rw [run_feeds_cons, feedByte_last b hs hn]
    rfl
  · rw [feedByte_last b hs hn]
    rfl

/-- The bytes of a frame between the header and the footer. -/
def innerBytes (f : Frame) : List Byte := List.ofFn fun k : Fin 23 => f[k.val + 1]

@[simp] theorem innerBytes_length (f : Frame) : (innerBytes f).length = 23 := List.length_ofFn

theorem innerBytes_getElem (f : Frame) {k : Nat} (h : k < (innerBytes f).length) :
    (innerBytes f)[k] = f[k + 1]'(by rw [innerBytes_length] at h; omega) := List.getElem_ofFn _

theorem toList_eq_innerBytes (f : Frame) : f.toList = f[0] :: (innerBytes f ++ [f[24]]) := by
  refine List.ext_getElem (by simp) fun k hk _ => ?_
  rw [Vector.length_toList] at hk
  cases k with
  | zero => rfl
  | succ k =>
    obtain hlt | rfl : k < 23 ∨ k = 23 := by omega
    · simp [hlt, innerBytes_getElem]
    · simp

/-- A buffer with a frame's header and inner bytes in place is completed to that frame by its footer. -/
theorem frameWith_of_holdsFrom {s t : State} {f : Frame} (h0 : t.bufByte 0 = f[0])
    (h : HoldsFrom s t 1 (innerBytes f)) : t.frameWith f[24] = f := by
  obtain ⟨-, hbytes⟩ := h
  ext k hk : 1
  cases k with
  | zero => exact (t.frameWith_of_lt _ 0 (by decide)).trans h0
  | succ k =>
    obtain hlt | rfl : k < 23 ∨ k = 23 := by omega
    · have hk' : k < (innerBytes f).length := by rwa [innerBytes_length]
      rw [State.frameWith_of_lt t _ _ (Nat.succ_lt_succ hlt), hbytes k hk' hk, innerBytes_getElem]
    · exact t.frameWith_last _

/-- In AwaitingHeader the 25 bytes of a frame with the header give one result at the last of them, computed from these
bytes (40_synchronizer.md R102 to R104). -/
theorem run_feeds_frame {s : State} (k : Nat) {f : Frame} (hs : s.sync = .awaitingHeader)
    (hf : f[0] = Config.header) :
    ∃ t, run k (feeds f.toList) s = some ([⟨k + 24, f, complete f⟩], t) ∧ t.sync = .awaitingHeader := by
  obtain ⟨hres, hheader, -⟩ := feedByte_of_awaiting hs Config.header
  obtain ⟨⟨n, hn, hn1⟩, h0, -⟩ := hheader rfl
  have hcount : n.count + (innerBytes f).length = 24 := by rw [hn1, innerBytes_length]
  obtain ⟨es, t, hinner, hholds, hend⟩ :=
    run_feeds_of_reading (innerBytes f) (k + 1) hn (hcount.trans_le (by decide))
  obtain ⟨rfl, m, hm, hm24⟩ := hend hcount.le
  rw [hn1] at hholds
  have hframe : t.frameWith f[24] = f :=
    frameWith_of_holdsFrom (((hholds.1 0 Nat.one_pos).trans h0).trans hf.symm) hholds
  obtain ⟨u, hlast, hu⟩ := run_feeds_last (k + 1 + (innerBytes f).length) f[24] hm (hm24.trans hcount)
  rw [hframe] at hlast
  refine ⟨u, ?_, hu⟩
  rw [toList_eq_innerBytes, hf, run_feeds_cons_of_result_none k _ hres, run_feeds_append hinner hlast,
    innerBytes_length]
  rfl

/-- Settles O32: RESYNC leaves AwaitingHeader without a result, and the frame is fed from there. -/
theorem frameAfterResyncGivesOneResult : Obligations.FrameAfterResyncGivesOneResult := by
  intro s f hf
  obtain ⟨t, hrun, ht⟩ := run_feeds_frame (s := after .resync s) 2 rfl hf
  exact ⟨_, t, (run_cons_of_result_none 1 (w := encode .resync) _ rfl).trans hrun, rfl, ht⟩

end Sys2Proof.Machine
end

section
/-! PROOF. VALIDATE's order of checks (41_validator.md R131, R132, R133). -/

namespace Sys2Proof.Machine

/-- Settles O38: the closed set is `footerLegal`, and each clause is one outcome of VALIDATE; that of an illegal footer
asks nothing of the flag byte. -/
theorem validateChecksFooterThenFlags : Obligations.ValidateChecksFooterThenFlags := by
  intro f legal
  have hfooter : footerLegal (footerByte f) = true ↔ legal := footerLegal_iff f[24]
  refine ⟨fun hl => ?_, fun hl hflags => ?_, fun hl hflags => ?_⟩
  · exact validateFrame_of_footer_illegal (Bool.eq_false_iff.2 (mt hfooter.1 hl))
  · exact validateFrame_of_legal (hfooter.2 hl) ((flagsLegal_iff f[23]).2 hflags)
  · exact validateFrame_of_flags_illegal (hfooter.2 hl) ((flagsLegal_eq_false_iff f[23]).2 hflags)

end Sys2Proof.Machine
end

section
/-! PROOF. DECODE, ENCODE and VALIDATE (42_codec.md R152, R160 to R164): where each bit of E stands in the encoded frame
and in a packet's word, and the two round trips from these bits. -/

namespace Sys2Proof.Machine

/-- Settles O42: DECODE reads each flag at its place in byte 23 (42_codec.md R152). -/
theorem decodeCopiesFlagBits : Obligations.DecodeCopiesFlagBits :=
  fun _ => ⟨rfl, rfl, rfl, rfl⟩

/-- A payload byte of the encoded frame is eight bits of E (42_codec.md R160). -/
theorem encodeFrame_payload_eq_extract (e : EWord) {k : Nat} (h1 : 1 ≤ k) (h22 : k ≤ 22) :
    (encodeFrame e)[k] = e.extractLsb' (8 * (k - 1)) 8 := by
  rw [encodeFrame_payload e k h1 h22, payloadByte]
  refine BitVec.eq_of_getLsbD_eq fun j hj => ?_
  have hbelow : 8 * (k - 1) + j < 176 := by omega
  simp [hj, hbelow]

/-- The flag byte of the encoded frame is E[179:176] under a zero nibble (42_codec.md R160). -/
theorem flagByteOf_getLsbD (e : EWord) (j : Nat) :
    (flagByteOf e).getLsbD j = (decide (j < 4) && e.getLsbD (176 + j)) := by
  by_cases hj : j < 4
  · have hj8 : j < 8 := by omega
    simp [flagByteOf, hj, hj8]
  · simp [flagByteOf, BitVec.getLsbD_setWidth, hj]

theorem flagsLegal_flagByteOf (e : EWord) : flagsLegal (flagByteOf e) = true := by
  have hreserved : flagReserved (flagByteOf e) = 0#4 := by
    refine BitVec.eq_of_getLsbD_eq fun j _ => ?_
    simp [flagReserved, flagByteOf_getLsbD]
  simp [flagsLegal, hreserved]

/-- Every encoded frame passes VALIDATE (42_codec.md R162). -/
theorem validateFrame_encodeFrame (e : EWord) : validateFrame (encodeFrame e) = none := by
  refine validateFrame_of_legal ?_ ?_
  · rw [footerByte, encodeFrame_footer]
    decide
  · rw [flagByte, encodeFrame_flags]
    exact flagsLegal_flagByteOf e

/-- Settles O44: ENCODE drives the port with E and its frame, whose bytes are the fields of E. -/
theorem encodeDrivesEncFrame : Obligations.EncodeDrivesEncFrame := by
  intro p s
  refine ⟨s.driveEnc (packE p), exec_eq_after (.encode p) s, rfl, encodeFrame_header _,
    fun k => encodeFrame_payload_eq_extract (packE p), fun j => ?_, encodeFrame_footer _, rfl, rfl, fun _ => rfl, rfl,
    rfl, rfl⟩
  rw [State.driveEnc_encOut, encodeFrame_flags, flagByteOf_getLsbD]

/-- Bit j of channel i in a packet's word: each of the i channels below it, taken off the end of the word, lowers the
bit's place by 11 (30_encoding.md R66). -/
theorem packE_getLsbD_ch (p : Packet) (i : Fin 16) {j : Nat} (hj : j < 11) :
    (packE p).getLsbD (j + 11 * i.val) = p.ch[i].getLsbD j := by
  have hbelow : ∀ d, 11 ≤ d → ¬ j + d < 11 := by omega
  obtain ⟨i, hi⟩ := i
  simp only [packE, BitVec.getLsbD_append]
  interval_cases i <;> simp [hj, hbelow]

/-- The four flags of a packet's word (30_encoding.md R66). -/
theorem packE_getLsbD_flags (p : Packet) :
    (packE p).getLsbD 176 = p.ch17 ∧ (packE p).getLsbD 177 = p.ch18 ∧
      (packE p).getLsbD 178 = p.frameLost ∧ (packE p).getLsbD 179 = p.failsafe := by
  simp only [packE, BitVec.getLsbD_append]
  simp

/-- The flag byte of a packet's word is R162's OR of the four flags. -/
theorem flagByteOf_packE (p : Packet) : flagByteOf (packE p) = flagByteByOr p := by
  obtain ⟨h0, h1, h2, h3⟩ := packE_getLsbD_flags p
  refine BitVec.eq_of_getLsbD_eq fun j hj => ?_
  rw [flagByteOf_getLsbD]
  interval_cases j <;> simp only [flagByteByOr, h0, h1, h2, h3] <;> simp

/-- Settles O46: the flag byte is the nibble of E, whatever the packet, so VALIDATE finds it legal as it finds the
footer. -/
theorem encodeOutputPassesValidate : Obligations.EncodeOutputPassesValidate := by
  intro p
  refine ⟨?_, ?_, encodeFrame_footer _, encodeFrame_header _, validateFrame_encodeFrame _⟩
  · rw [encodeFrame_flags, flagByteOf_packE, flagByteByOr]
  · rw [encodeFrame_flags]
    exact (flagsLegal_iff _).1 (flagsLegal_flagByteOf _)

/-- The payload of the encoded frame is E[175:0]. -/
theorem payload_encodeFrame_getLsbD (e : EWord) {q : Nat} (hq : q < 176) :
    (payload (encodeFrame e)).getLsbD q = e.getLsbD q := by
  rw [payload_getLsbD _ hq, encodeFrame_payload_eq_extract e (by omega) (by omega), BitVec.getLsbD_extractLsb',
    Nat.add_sub_cancel_left, Nat.div_add_mod]
  simp [Nat.mod_lt]

/-- Settles O47: a channel of the decoded frame has the bits of E at its place, and so has each flag. -/
theorem decodeOfEncodedFrame : Obligations.DecodeOfEncodedFrame := by
  intro e
  have hch : ∀ i : Fin 16, channelField (payload (encodeFrame e)) i = e.extractLsb' (11 * i.val) 11 := fun i => by
    refine BitVec.eq_of_getLsbD_eq fun j hj => ?_
    rw [channelField_getLsbD _ i hj, payload_encodeFrame_getLsbD e (by omega)]
    simp [hj]
  have hflag : ∀ j < 4, (flagByte (encodeFrame e)).getLsbD j = e.getLsbD (176 + j) := fun j hj => by
    rw [flagByte, encodeFrame_flags, flagByteOf_getLsbD]
    simp [hj]
  simp only [decodeFrame, unpackE, hch, Packet.mk.injEq, true_and]
  exact ⟨hflag 0 (by decide), hflag 1 (by decide), hflag 2 (by decide), hflag 3 (by decide)⟩

/-- The word of a decoded frame's packet holds the payload in its low bits. -/
theorem packE_decodeFrame_getLsbD (f : Frame) {q : Nat} (hq : q < 176) :
    (packE (decodeFrame f)).getLsbD q = (payload f).getLsbD q := by
  have hbit := packE_getLsbD_ch (decodeFrame f) ⟨q / 11, by omega⟩ (Nat.mod_lt q (by decide))
  rw [decodeFrame_ch, channelField_getLsbD _ _ (Nat.mod_lt q (by decide)), Nat.mod_add_div, Nat.div_add_mod] at hbit
  exact hbit

/-- Encoding the packet of a frame gives its payload bytes back. -/
theorem encodeFrame_packE_decodeFrame_payload (f : Frame) {k : Nat} (h1 : 1 ≤ k) (h22 : k ≤ 22) :
    (encodeFrame (packE (decodeFrame f)))[k] = f[k] := by
  obtain ⟨k, rfl⟩ := Nat.exists_eq_add_of_le' h1
  refine BitVec.eq_of_getLsbD_eq fun j hj => ?_
  rw [encodeFrame_payload_eq_extract _ h1 h22, ← payload_getLsbD_of_byte f h22 hj,
    ← packE_decodeFrame_getLsbD f (by omega)]
  simp [hj, Nat.add_comm]

theorem flagsLegal_of_pass {f : Frame} (h : validateFrame f = none) : flagsLegal f[23] = true := by
  refine Bool.of_not_eq_false fun hflags => ?_
  cases hfooter : footerLegal (footerByte f)
  · cases (validateFrame_of_footer_illegal hfooter).symm.trans h
  · cases (validateFrame_of_flags_illegal hfooter hflags).symm.trans h

theorem getLsbD_of_flagsLegal {b : Byte} (h : flagsLegal b = true) {j : Nat} (hj : 4 ≤ j) : b.getLsbD j = false := by
  have hpow : 2 ^ 4 ≤ 2 ^ j := Nat.pow_le_pow_right (by decide) hj
  exact Nat.testBit_lt_two_pow (((flagsLegal_iff b).1 h).trans_le hpow)

/-- Encoding the packet of a frame gives back its flag byte where the high nibble is zero. -/
theorem flagByteOf_packE_decodeFrame {f : Frame} (h : flagsLegal f[23] = true) :
    flagByteOf (packE (decodeFrame f)) = f[23] := by
  obtain ⟨h0, h1, h2, h3⟩ := packE_getLsbD_flags (decodeFrame f)
  refine BitVec.eq_of_getLsbD_eq fun j _ => ?_
  rw [flagByteOf_getLsbD]
  by_cases hj : j < 4
  · interval_cases j
    · exact h0
    · exact h1
    · exact h2
    · exact h3
  · simp [hj, getLsbD_of_flagsLegal h (Nat.le_of_not_lt hj)]

/-- Encoding the packet of a frame that passes gives back all but its footer (42_codec.md R164). -/
theorem encodeFrame_packE_decodeFrame_of_lt {f : Frame} (hheader : f[0] = Config.header) (h : validateFrame f = none)
    {k : Nat} (hk : k < 24) : (encodeFrame (packE (decodeFrame f)))[k] = f[k] := by
  obtain rfl | ⟨h1, h22⟩ | rfl : k = 0 ∨ (1 ≤ k ∧ k ≤ 22) ∨ k = 23 := by omega
  · exact (encodeFrame_header _).trans hheader.symm
  · exact encodeFrame_packE_decodeFrame_payload f h1 h22
  · rw [encodeFrame_flags, flagByteOf_packE_decodeFrame (flagsLegal_of_pass h)]

/-- Settles O48: the bytes below the footer come back, and the footer of an encoded frame is 0x00. -/
theorem encodeOfDecodedFrame : Obligations.EncodeOfDecodedFrame := by
  intro f hheader hpass
  refine ⟨fun hfooter => ?_, fun _ => ⟨encodeFrame_footer _, fun k =>
    encodeFrame_packE_decodeFrame_of_lt hheader hpass k.isLt⟩⟩
  ext k hk : 1
  obtain hlt | rfl : k < 24 ∨ k = 24 := by omega
  · exact encodeFrame_packE_decodeFrame_of_lt hheader hpass hlt
  · exact (encodeFrame_footer _).trans hfooter.symm

end Sys2Proof.Machine
end

section
/-! PROOF. Errors (60_exceptions.md R200, R202, R203): only a FEED in Reading(24) presents a result, an error is one of
the two of VALIDATE, and the AwaitingHeader state it leaves is observed as any other. -/

namespace Sys2Proof.Machine

/-- An error result is one of the two of R200, with the byte it carries. -/
theorem error_of_complete {f : Frame} {e : ParserError} (h : complete f = .err e) :
    e = .invalidFooter f[24] ∨ e = .invalidFlags f[23] := by
  cases hfooter : footerLegal (footerByte f) with
  | false =>
    rw [complete_of_error (validateFrame_of_footer_illegal hfooter)] at h
    exact .inl (FrameResult.err.inj h).symm
  | true =>
    cases hflags : flagsLegal (flagByte f) with
    | false =>
      rw [complete_of_error (validateFrame_of_flags_illegal hfooter hflags)] at h
      exact .inr (FrameResult.err.inj h).symm
    | true =>
      rw [complete_of_pass (validateFrame_of_legal hfooter hflags)] at h
      cases h

/-- A byte that presents a result was taken in Reading(24), leaves AwaitingHeader, and the result is that of the
presented frame (40_synchronizer.md R104). -/
theorem feedByte_of_result_some {b : Byte} {s : State} {f : Frame} {r : FrameResult}
    (h : (feedByte b s).result = some (f, r)) :
    (∃ n : Position, s.sync = .reading n ∧ n.count = 24) ∧ (feedByte b s).sync = .awaitingHeader ∧
      complete f = r := by
  obtain ⟨n, hs, hn⟩ := (feedByte_result_isSome_iff b s).1 (Option.isSome_of_eq_some h)
  rw [feedByte_last b hs hn] at h ⊢
  obtain ⟨rfl, rfl⟩ := Prod.mk.inj (Option.some.inj h)
  exact ⟨⟨n, hs, hn⟩, rfl, rfl⟩

/-- Of the operations of SYNC only FEED presents a result: the others take no byte, or take it after a resync. -/
theorem feed_of_after_result_some {i : Instr} {s : State} {x : Frame × FrameResult} (hi : ∀ p, i ≠ .encode p)
    (h : (after i s).result = some x) : ∃ b, i = .feed b := by
  cases i with
  | reset => cases h
  | idle => cases h
  | feed b => exact ⟨b, rfl⟩
  | resync => cases h
  | resyncFeed b =>
    obtain ⟨hnone, -⟩ := feedByte_of_awaiting (s := s.setSync .awaitingHeader) rfl b
    cases hnone.symm.trans h
  | encode p => exact absurd rfl (hi p)

/-- Settles O9: exec always answers `after`, a result comes from a FEED in Reading(24) and is that of its frame, and
ENCODE leaves the result port alone. -/
theorem feedingNeverFails : Obligations.FeedingNeverFails := by
  refine ⟨fun w s => ⟨_, exec_eq_after _ s, fun f e h => ?_⟩, fun p s => ⟨_, exec_eq_after (.encode p) s, rfl⟩⟩
  obtain ⟨b, hw⟩ := feed_of_after_result_some (decodeT_ne_encode w) h
  rw [hw] at h
  obtain ⟨hlast, -, hcomplete⟩ := feedByte_of_result_some h
  exact ⟨hlast, error_of_complete hcomplete⟩

theorem observe_isSome (ws : List PortWord) (s : State) : (observe ws s).isSome = true := by
  obtain ⟨es, t, hrun⟩ := run_completes ws 1 s
  simp [observe, hrun]

end Sys2Proof.Machine

namespace Sys2Proof.Safety

open Sys2Proof.Machine

/-- States that agree in S and the meaningful bytes of BUF are observed alike (10_state.md R25). -/
theorem SameMeaning.observe_eq {s t : State} (h : SameMeaning s t) (ws : List PortWord) :
    observe ws s = observe ws t := by
  obtain ⟨es, s', t', hs, ht, ⟨hsync, -⟩, -⟩ := staleBytesAreNeverObservable 1 ws s t h
  simp [observe, hs, ht, hsync]

/-- Settles O25: the step that presents a result leaves AwaitingHeader, where no byte of BUF has a meaning. -/
theorem errorLeavesNoTrace : Obligations.ErrorLeavesNoTrace := by
  intro s t u b f e ws hexec herr hu
  rw [exec_eq_after] at hexec
  cases hexec
  obtain ⟨-, ht, -⟩ := feedByte_of_result_some herr
  exact ⟨ht, observe_isSome ws _, (sameMeaning_of_awaiting ht hu).observe_eq ws⟩

end Sys2Proof.Safety
end

section
/-! PROOF. The invariant at reset and after every step (10_state.md R24; 40_synchronizer.md R104, R105; 30_encoding.md
R66): BUF is changed only by a byte of the frame being read and by a reset, and the frame of a completing step starts
with BUF[0]. -/

namespace Sys2Proof.Safety

open Sys2Proof.Machine

theorem heldBytes_of_awaiting {s : State} (h : s.sync = .awaitingHeader) : HeldBytes s :=
  fun _ hn => nomatch h.symm.trans hn

theorem portHonest_of_none {s : State} (h : s.result = none) : PortHonest s :=
  fun _ _ hr => nomatch h.symm.trans hr

/-- Settles O27: the launch state reads no frame and presents nothing. -/
theorem invariantAtReset : Obligations.InvariantAtReset :=
  ⟨State.reset_wf, heldBytes_of_awaiting rfl, portHonest_of_none rfl, rfl⟩

/-- The invariant says nothing of the host's list. -/
theorem MachineInv.with_pending {s : State} (h : MachineInv s) (ws : List PortWord) :
    MachineInv { s with pending := ws } :=
  ⟨h.bufForm, h.held, h.port, h.enc⟩

theorem wf_feedByte {s : State} (h : Memory.wf s.buf = true) (b : Byte) : Memory.wf (feedByte b s).buf = true := by
  obtain ⟨-, -, hf⟩ | ⟨-, -, hf⟩ | ⟨n, hn, -, hf⟩ | ⟨n, hn, -, hf⟩ := feedByte_cases b s
  · rw [hf]; exact Memory.wf_store s.buf 0 b h
  · rw [hf]; exact h
  · rw [hf]; exact Memory.wf_store s.buf n.addr b h
  · rw [hf]; exact Memory.wf_store s.buf 24 b h

/-- Every operation keeps the canonical form of BUF. -/
theorem wf_after {s : State} (h : Memory.wf s.buf = true) (i : Instr) : Memory.wf (after i s).buf = true := by
  cases i with
  | reset => exact s.forgetBuf_wf
  | idle => exact h
  | feed b => exact wf_feedByte h b
  | resync => exact h
  | resyncFeed b => exact wf_feedByte (s := s.setSync .awaitingHeader) h b
  | encode p => exact h

/-- The header written at BUF[0] is the one byte that Reading(1) holds. -/
theorem heldBytes_of_header {s t : State} (hsync : t.sync = .reading Position.first)
    (hbuf : t.buf = Memory.store s.buf 0 Config.header) : HeldBytes t := by
  intro m hm
  obtain rfl : Position.first = m := SyncState.reading.inj (hsync.symm.trans hm)
  have h0 : Memory.lookup t.buf 0 = some Config.header := by rw [hbuf, Memory.lookup_store_same]
  refine ⟨h0, fun a ha => ?_⟩
  obtain rfl : a = 0 := Nat.lt_one_iff.1 ha
  exact Option.isSome_of_eq_some h0

/-- A byte written at BUF[n] joins those that Reading(n) holds. -/
theorem HeldBytes.advance {s t : State} {n : Position} {b : Byte} (h : HeldBytes s) (hs : s.sync = .reading n)
    (hn : n.count < 24) (hsync : t.sync = .reading (n.next hn)) (hbuf : t.buf = Memory.store s.buf n.count b) :
    HeldBytes t := by
  obtain ⟨h0, hall⟩ := h n hs
  intro m hm
  obtain rfl : n.next hn = m := SyncState.reading.inj (hsync.symm.trans hm)
  have hne : 0 ≠ n.count := (Nat.ne_of_gt n.one_le).symm
  rw [hbuf]
  refine ⟨by rwa [Memory.lookup_store_ne _ _ hne], fun a ha => ?_⟩
  by_cases hna : a = n.count
  · rw [hna, Memory.lookup_store_same, Option.isSome_some]
  · rw [Memory.lookup_store_ne _ _ hna]
    exact hall a (Nat.lt_of_le_of_ne (Nat.lt_succ_iff.1 ha) hna)

theorem HeldBytes.feed {s : State} (h : HeldBytes s) (b : Byte) : HeldBytes (feedByte b s) := by
  obtain ⟨-, rfl, hf⟩ | ⟨hs, -, hf⟩ | ⟨n, hn, hs, hf⟩ | ⟨n, -, -, hf⟩ := feedByte_cases b s
  · rw [hf]; exact heldBytes_of_header (s := s) rfl rfl
  · rw [hf]; exact heldBytes_of_awaiting hs
  · rw [hf]; exact h.advance hs hn rfl rfl
  · rw [hf]; exact heldBytes_of_awaiting rfl

/-- Every operation keeps the bytes that Reading(n) holds. -/
theorem HeldBytes.after_holds {s : State} (h : HeldBytes s) (i : Instr) : HeldBytes (after i s) := by
  cases i with
  | reset => exact heldBytes_of_awaiting rfl
  | idle => exact h
  | feed b => exact h.feed b
  | resync => exact heldBytes_of_awaiting rfl
  | resyncFeed b => exact (heldBytes_of_awaiting (s := s.setSync .awaitingHeader) rfl).feed b
  | encode p => exact h

/-- The frame that a byte completes starts with the held header. -/
theorem HeldBytes.portHonest_feed {s : State} (h : HeldBytes s) (b : Byte) : PortHonest (feedByte b s) := by
  intro f r hr
  obtain ⟨n, hs, hn⟩ := (feedByte_result_isSome_iff b s).1 (Option.isSome_of_eq_some hr)
  rw [feedByte_last b hs hn] at hr
  obtain ⟨rfl, rfl⟩ := Prod.mk.inj (Option.some.inj hr)
  obtain ⟨h0, -⟩ := h n hs
  exact ⟨(s.frameWith_of_lt b 0 (by decide)).trans (State.bufByte_of_lookup h0), rfl⟩

/-- Every operation leaves an honest result port: it presents nothing, completes a held frame, or lets the port be. -/
theorem MachineInv.portHonest_after {s : State} (h : MachineInv s) (i : Instr) : PortHonest (after i s) := by
  cases i with
  | reset => exact portHonest_of_none rfl
  | idle => exact portHonest_of_none rfl
  | feed b => exact h.held.portHonest_feed b
  | resync => exact portHonest_of_none rfl
  | resyncFeed b => exact (heldBytes_of_awaiting (s := s.setSync .awaitingHeader) rfl).portHonest_feed b
  | encode p => exact h.port

theorem MachineInv.after_holds {s : State} (h : MachineInv s) (i : Instr) : MachineInv (after i s) :=
  ⟨wf_after h.bufForm i, h.held.after_holds i, h.portHonest_after i, after_encOut i s⟩

/-- Settles O28: a step is one operation on the state without the head of the host's list. -/
theorem stepKeepsInvariant : Obligations.StepKeepsInvariant := by
  intro s t h hstep
  obtain ⟨w, ws, -, rfl⟩ := step_next_cases hstep
  exact (h.with_pending ws).after_holds (decodeWord w)

end Sys2Proof.Safety

end

section
/-! PROOF. The port words and their decoding (30_encoding.md R61, R66, R71, R73): a packet's word holds its sixteen
channels and four flags and nothing else, and a T row of the opcode table is a value of T[10:8]. -/

namespace Sys2Proof.Machine

/-- Reading channel i from a packet's word. -/
theorem packE_extract_ch (p : Packet) (i : Fin 16) : (packE p).extractLsb' (11 * i.val) 11 = p.ch[i] := by
  refine BitVec.eq_of_getLsbD_eq fun j hj => ?_
  have hbit := packE_getLsbD_ch p i hj
  rw [Nat.add_comm] at hbit
  simp [hj, hbit]

theorem unpackE_packE (p : Packet) : unpackE (packE p) = p := by
  obtain ⟨h17, h18, hlost, hfailsafe⟩ := packE_getLsbD_flags p
  have hch : (unpackE (packE p)).ch = p.ch := by
    ext i hi : 1
    simpa [unpackE] using packE_extract_ch p ⟨i, hi⟩
  calc unpackE (packE p) = ⟨p.ch, p.ch17, p.ch18, p.frameLost, p.failsafe⟩ :=
        (Packet.mk.injEq ..).mpr ⟨hch, h17, h18, hlost, hfailsafe⟩
    _ = p := rfl

/-- Settles O1: an operation of SYNC is read back from T[10:8] and in_data, a packet field by field. -/
theorem decodeOfEncodeIsSameInstr : Obligations.DecodeOfEncodeIsSameInstr := by
  intro i _
  cases i with
  | reset => decide
  | idle => decide
  | feed b => exact decodeWord_encode_feed b
  | resync => decide
  | resyncFeed b => exact decodeWord_encode_resyncFeed b
  | encode p => exact congrArg Instr.encode (unpackE_packE p)

/-- Below the flags, bit q of a packet's word is bit q mod 11 of channel q div 11. -/
theorem packE_getLsbD_of_lt (p : Packet) {q : Nat} (hq : q < 176) :
    (packE p).getLsbD q = (p.ch[q / 11]'(by omega)).getLsbD (q % 11) := by
  have hbit := packE_getLsbD_ch p ⟨q / 11, by omega⟩ (Nat.mod_lt q (by decide))
  rwa [Nat.mod_add_div] at hbit

/-- Settles O2: each bit of E is in one channel or is one flag, and goes back to its place. -/
theorem packOfUnpackIsSameWord : Obligations.PackOfUnpackIsSameWord := by
  intro e
  obtain ⟨h17, h18, hlost, hfailsafe⟩ := packE_getLsbD_flags (unpackE e)
  refine BitVec.eq_of_getLsbD_eq fun q hq => ?_
  obtain hlt | rfl | rfl | rfl | rfl : q < 176 ∨ q = 176 ∨ q = 177 ∨ q = 178 ∨ q = 179 := by omega
  · rw [packE_getLsbD_of_lt _ hlt]
    simp [unpackE, Nat.mod_lt, Nat.div_add_mod]
  · exact h17
  · exact h18
  · exact hlost
  · exact hfailsafe

/-! ### The opcode table -/

/-- The word with the bits T[10:8] of `w` and zeros below them. -/
def opcodeWord (w : TWord) : TWord := (w.extractLsb' 8 3).setWidth 11 <<< 8

theorem opcodeWord_eq_and (w : TWord) : opcodeWord w = w &&& 0x700#11 := by
  have hmask : ∀ j < 11, (0x700#11).getLsbD j = decide (8 ≤ j) := by decide
  refine BitVec.eq_of_getLsbD_eq fun j hj => ?_
  rw [BitVec.getLsbD_and, hmask j hj]
  by_cases h8 : 8 ≤ j
  · have hbelow : j - 8 < 3 := by omega
    simp [opcodeWord, hj, h8, hbelow, Nat.not_lt.2 h8]
  · simp [opcodeWord, h8, Nat.lt_of_not_le h8]

theorem mnemonic_decodeT_opcodeWord (w : TWord) :
    (decodeT (opcodeWord w)).mnemonic = (decodeT w).mnemonic := by
  have hrst : tRst (opcodeWord w) = tRst w := by simp [tRst, opcodeWord]
  have hresync : tResync (opcodeWord w) = tResync w := by simp [tResync, opcodeWord]
  have hvalid : tInValid (opcodeWord w) = tInValid w := by simp [tInValid, opcodeWord]
  cases hr : tRst w with
  | true => rw [decodeT_of_rst hr, decodeT_of_rst (hrst.trans hr)]
  | false =>
    cases hv : tInValid w with
    | false => rw [decodeT_of_no_byte hr hv, decodeT_of_no_byte (hrst.trans hr) (hvalid.trans hv), hresync]
    | true =>
      rw [decodeT_of_byte hr hv, decodeT_of_byte (hrst.trans hr) (hvalid.trans hv), hresync]
      cases tResync w <;> rfl

theorem OpRow.holds_opcodeWord {r : OpRow} (hr : r ∈ opRows) (w : TWord) : r.holds (opcodeWord w) = r.holds w := by
  have hmask : ∀ r ∈ opRows, 0x700#11 &&& r.mask = r.mask := by decide
  rw [OpRow.holds, opcodeWord_eq_and, BitVec.and_assoc, hmask r hr, OpRow.holds]

/-- Settles O3: row and mnemonic are functions of T[10:8], and the table is checked at the eight values of these. -/
theorem tableRowIffDecodedMnemonic : Obligations.TableRowIffDecodedMnemonic := by
  intro w r hr
  have htable : ∀ v : BitVec 3, ∀ r ∈ opRows,
      (r.holds (v.setWidth 11 <<< 8) = true ↔ r.mnemonic = (decodeT (v.setWidth 11 <<< 8)).mnemonic) := by decide
  rw [← OpRow.holds_opcodeWord hr w, ← mnemonic_decodeT_opcodeWord w]
  exact htable _ r hr

/-- Settles O5: with rst set the word is RESET, and the other words are constants that decode by evaluation. -/
theorem handWrittenWordsDecode : Obligations.HandWrittenWordsDecode :=
  ⟨decodeT_of_rst (by decide), decodeT_of_rst (by decide), by decide, by decide, by decide, by decide, by decide⟩

theorem decodeBits_of_ok {p : Port} {n : Nat} {w : PortWord} (h : wordOnPort p n = .ok w) :
    decodeBits p n = .ok (decodeWord w) := by
  rw [decodeBits, h, Except.map]

theorem decodeBits_of_error {p : Port} {n : Nat} {e : DecodeError} (h : wordOnPort p n = .error e) :
    decodeBits p n = .error e := by
  rw [decodeBits, h, Except.map]

/-- Settles O6: each port has one bound, and a number below it is its own word. -/
theorem rawNumberDecodesIffItFits : Obligations.RawNumberDecodesIffItFits := by
  intro n
  refine ⟨fun h => ?_, fun h => ?_, fun h => ?_, fun h => ?_⟩
  · exact decodeBits_of_ok (w := .t (BitVec.ofNat 11 n)) (if_pos h)
  · exact decodeBits_of_error (if_neg (Nat.not_lt.2 h))
  · exact decodeBits_of_ok (w := .e (BitVec.ofNat 180 n)) (if_pos h)
  · exact decodeBits_of_error (if_neg (Nat.not_lt.2 h))

end Sys2Proof.Machine
end

section
/-! PROOF. Where the bytes of a frame stand on its bus (30_encoding.md R66), and what VALIDATE reads of a frame
(41_validator.md R130, R134). -/

namespace Sys2Proof.Machine

/-- Bit j of byte k on the bus: each of the k bytes below it, taken off the end, lowers the bit's place by 8. -/
theorem flattenFrame_getLsbD (f : Frame) {k j : Nat} (hk : k < 25) (hj : j < 8) :
    (flattenFrame f).getLsbD (j + 8 * k) = f[k].getLsbD j := by
  have hbelow : ∀ d, 8 ≤ d → ¬ j + d < 8 := by omega
  simp only [flattenFrame, BitVec.getLsbD_append]
  interval_cases k <;> simp [hj, hbelow]

/-- Settles O51, bit by bit. -/
theorem flattenedByteLayout : Obligations.FlattenedByteLayout := by
  intro f k
  refine BitVec.eq_of_getLsbD_eq fun j hj => ?_
  have hbit := flattenFrame_getLsbD f k.isLt hj
  rw [Nat.add_comm] at hbit
  simp [hj, hbit]

theorem validateFrame_congr {f g : Frame} (h23 : f[23] = g[23]) (h24 : f[24] = g[24]) :
    validateFrame f = validateFrame g := by
  simp only [validateFrame, flagByte, footerByte, h23, h24]

/-- A frame passes exactly if its footer and the high nibble of its flag byte are legal. -/
theorem validateFrame_eq_none_iff (f : Frame) :
    validateFrame f = none ↔ footerLegal f[24] = true ∧ flagsLegal f[23] = true := by
  rw [validateFrame, footerByte, flagByte]
  cases footerLegal f[24] <;> cases flagsLegal f[23] <;> simp

theorem flagsLegal_congr {b c : Byte} (h : b >>> 4 = c >>> 4) : flagsLegal b = flagsLegal c := by
  have hnibble : ∀ a : Byte, flagReserved a = (a >>> 4).setWidth 4 := fun a => rfl
  rw [flagsLegal, flagsLegal, hnibble, hnibble, h]

/-- Settles O39: VALIDATE reads bytes 23 and 24, and passing is a property of the footer and the nibble. -/
theorem validateIgnoresPayload : Obligations.ValidateIgnoresPayload := by
  refine ⟨fun f g h23 h24 => validateFrame_congr h23 h24, fun f g h24 hnibble => ?_⟩
  rw [validateFrame_eq_none_iff, validateFrame_eq_none_iff, h24, flagsLegal_congr hnibble]

end Sys2Proof.Machine
end

section
/-! PROOF. One step, from the host's word to S and BUF (40_synchronizer.md R100; 20_memory.md R42; 70_reset_and_hazards.md
R233), and the codes of cnt (10_state.md R22). -/

namespace Sys2Proof.Machine

open Sys2Proof.Safety

/-- No operation of SYNC changes E. -/
theorem after_encIn_of_ne_encode {i : Instr} (hi : ∀ p, i ≠ .encode p) (s : State) :
    (after i s).encIn = s.encIn := by
  cases i with
  | reset => rfl
  | idle => rfl
  | feed b => exact feedByte_encIn b s
  | resync => rfl
  | resyncFeed b => exact feedByte_encIn b _
  | encode p => exact absurd rfl (hi p)

/-- Settles O49: enc_frame is ENCODE(E) after every operation, and no T word selects ENCODE. -/
theorem encFrameIsEncodeInEveryStep : Obligations.EncFrameIsEncodeInEveryStep := by
  intro s t hstep
  obtain ⟨w, ws, hp, rfl⟩ := step_next_cases hstep
  refine ⟨after_encOut _ _, fun ⟨v, vs, hv⟩ => ?_⟩
  obtain ⟨rfl, -⟩ := List.cons.inj (hp.symm.trans hv)
  exact after_encIn_of_ne_encode (decodeT_ne_encode v) _

theorem step_of_pending_cons {s : State} {w : PortWord} {ws : List PortWord} (h : s.pending = w :: ws) :
    step s = exec (decodeWord w) { s with pending := ws } := by
  simp only [step, fetch, h]

theorem step_of_pending_nil {s : State} (h : s.pending = []) : step s = .refused .noTransaction := by
  simp only [step, fetch, h]

/-- Settles O7: the two forms of the host's list. -/
theorem stepRunsTheDecodedOperation : Obligations.StepRunsTheDecodedOperation :=
  ⟨fun _ _ _ => step_of_pending_cons, fun _ => step_of_pending_nil⟩

/-- Settles O15: in_data alone sets none of T[10:8], and IDLE sets the result port alone. -/
theorem idleChangesNothing : Obligations.IdleChangesNothing := by
  refine ⟨fun d => ?_, fun s => ⟨_, exec_eq_after .idle s, rfl, keepsBuf_present s none, rfl, rfl⟩⟩
  rw [← BitVec.zero_or (x := d.setWidth 11), decodeT_of_no_byte (by rw [tRst_or_byte]; decide)
    (by rw [tInValid_or_byte]; decide), tResync_or_byte]
  rfl

/-- Settles O21: RESET leaves no byte listed. -/
theorem resetLeavesBufUnspecified : Obligations.ResetLeavesBufUnspecified := by
  intro s t h
  rw [exec_eq_after] at h
  cases h
  exact ⟨rfl, fun a => s.bufByte_forgetBuf a⟩

/-! ### The four operations of T with rst = 0 (30_encoding.md R61) -/

theorem decodeT_eq_idle {w : TWord} (hrst : tRst w = false) (hresync : tResync w = false)
    (hvalid : tInValid w = false) : decodeT w = .idle := by
  simp [decodeT, hrst, hresync, hvalid]

theorem decodeT_eq_feed {w : TWord} (hrst : tRst w = false) (hresync : tResync w = false)
    (hvalid : tInValid w = true) : decodeT w = .feed (tInData w) := by
  simp [decodeT, hrst, hresync, hvalid]

theorem decodeT_eq_resync {w : TWord} (hrst : tRst w = false) (hresync : tResync w = true)
    (hvalid : tInValid w = false) : decodeT w = .resync := by
  simp [decodeT, hrst, hresync, hvalid]

theorem decodeT_eq_resyncFeed {w : TWord} (hrst : tRst w = false) (hresync : tResync w = true)
    (hvalid : tInValid w = true) : decodeT w = .resyncFeed (tInData w) := by
  simp [decodeT, hrst, hresync, hvalid]

/-- Settles O8, along R100's order. -/
theorem resetThenResyncThenByte : Obligations.ResetThenResyncThenByte := by
  intro w s
  have h9 : w.getLsbD 9 = tResync w := rfl
  refine ⟨_, exec_eq_after (decodeT w) s, fun hrst => ?_, fun hrst hvalid => ?_, fun hrst hvalid => ?_⟩
  · rw [decodeT_of_rst hrst]
    exact ⟨rfl, rfl⟩
  · rw [h9]
    cases hresync : tResync w with
    | false =>
      rw [decodeT_eq_idle hrst hresync hvalid]
      exact ⟨rfl, rfl, keepsBuf_present s none⟩
    | true =>
      rw [decodeT_eq_resync hrst hresync hvalid]
      exact ⟨rfl, rfl, (keepsBuf_setSync s .awaitingHeader).trans (keepsBuf_present _ none)⟩
  · rw [h9, exec_eq_after]
    cases hresync : tResync w with
    | false => rw [decodeT_eq_feed hrst hresync hvalid]; rfl
    | true => rw [decodeT_eq_resyncFeed hrst hresync hvalid]; rfl

/-- A byte of BUF changed by feed(b) now holds b, and is BUF[n] or the header's (20_memory.md R42). -/
theorem feedByte_of_bufByte_ne {b : Byte} {s : State} {a : Fin 25} (h : (feedByte b s).bufByte a ≠ s.bufByte a) :
    (feedByte b s).bufByte a = b ∧
      ((∃ n, s.sync = .reading n ∧ a = n.addr) ∨ (a = 0 ∧ b = Config.header ∧ s.sync = .awaitingHeader)) := by
  cases hs : s.sync with
  | awaitingHeader =>
    obtain ⟨-, hheader, hother⟩ := feedByte_of_awaiting hs b
    have hb : b = Config.header := by
      by_contra hb
      exact h ((hother hb).2.1 a)
    obtain ⟨-, hsame, hkeep, -⟩ := hheader hb
    obtain rfl : a = 0 := by
      by_contra ha
      exact h (hkeep a ha)
    exact ⟨hsame, .inr ⟨rfl, hb, rfl⟩⟩
  | reading n =>
    rw [bufByte_feedByte_reading hs] at h ⊢
    obtain rfl : a = n.addr := by
      by_contra ha
      exact h (s.bufByte_writeBuf_ne b ha)
    exact ⟨s.bufByte_writeBuf_same n.addr b, .inl ⟨n, rfl, rfl⟩⟩

/-- Settles O22: without a byte BUF is kept, and with one the address is that of feed(b) in the S the resync leaves. -/
theorem atMostOneBufByteWritten : Obligations.AtMostOneBufByteWritten := by
  intro w s t a hrst hexec hne
  rw [exec_eq_after] at hexec
  cases hexec
  cases hresync : tResync w with
  | false =>
    cases hvalid : tInValid w with
    | false =>
      rw [decodeT_eq_idle hrst hresync hvalid] at hne
      exact absurd rfl hne
    | true =>
      rw [decodeT_eq_feed hrst hresync hvalid] at hne ⊢
      obtain ⟨hb, ⟨n, hs, ha⟩ | ⟨ha, hheader, hs⟩⟩ := feedByte_of_bufByte_ne hne
      · exact ⟨rfl, hb, .inl ⟨n, hs, rfl, ha⟩⟩
      · exact ⟨rfl, hb, .inr ⟨ha, hheader, .inl hs⟩⟩
  | true =>
    cases hvalid : tInValid w with
    | false =>
      rw [decodeT_eq_resync hrst hresync hvalid] at hne
      exact absurd rfl hne
    | true =>
      rw [decodeT_eq_resyncFeed hrst hresync hvalid] at hne ⊢
      obtain ⟨hb, ⟨n, hs, -⟩ | ⟨ha, hheader, -⟩⟩ := feedByte_of_bufByte_ne (s := s.setSync .awaitingHeader) hne
      · cases hs
      · exact ⟨rfl, hb, .inr ⟨ha, hheader, .inr rfl⟩⟩

/-- Settles O23, along R100's order. -/
theorem positionAdvancesByOne : Obligations.PositionAdvancesByOne := by
  intro w s t n hs hexec
  rw [exec_eq_after] at hexec
  cases hexec
  refine ⟨fun hrst => ?_, fun hrst hresync => ?_, fun hrst hresync => ?_⟩
  · rw [decodeT_of_rst hrst]
    rfl
  · obtain ⟨-, hheader, hother⟩ := feedByte_of_awaiting (s := s.setSync .awaitingHeader) rfl (tInData w)
    refine ⟨fun hvalid hb => ?_, fun hb => ?_⟩
    · rw [decodeT_eq_resyncFeed hrst hresync hvalid]
      exact (hheader hb).1
    · cases hvalid : tInValid w with
      | false => rw [decodeT_eq_resync hrst hresync hvalid]; rfl
      | true =>
        rw [decodeT_eq_resyncFeed hrst hresync hvalid]
        exact (hother (hb hvalid)).1
  · refine ⟨fun hvalid => ?_, fun hvalid hn => ?_, fun hvalid hn => ?_⟩
    · rw [decodeT_eq_idle hrst hresync hvalid]
      exact hs
    · rw [decodeT_eq_feed hrst hresync hvalid]
      exact ⟨n.next hn, congrArg State.sync (feedByte_reading _ hs hn), rfl⟩
    · rw [decodeT_eq_feed hrst hresync hvalid]
      exact congrArg State.sync (feedByte_last _ hs hn)

/-- Settles O24: the word that presents a result leaves AwaitingHeader, and a result comes only from Reading(24). -/
theorem resultIsPresentForOneStep : Obligations.ResultIsPresentForOneStep := by
  intro w v s t u hw hres hv
  have hwhen := resultOnlyInCompletingStep w s t hw
  obtain ⟨⟨n, hs, hn⟩, hvalid, hrst, hresync⟩ := hwhen.1 hres
  obtain ⟨-, -, hmove⟩ := positionAdvancesByOne w s t n hs hw
  have ht : t.sync = .awaitingHeader := (hmove hrst hresync).2.2 hvalid hn
  rw [← Option.not_isSome_iff_eq_none, resultOnlyInCompletingStep v t u hv]
  rintro ⟨⟨m, hm, -⟩, -⟩
  cases ht.symm.trans hm

/-! ### The codes of cnt -/

/-- 24 fits five bits, so a count is its own code. -/
theorem Position.cnt_toNat (n : Position) : (SyncState.cnt (.reading n)).toNat = n.count := by
  have hlt : n.count < 2 ^ 5 := Nat.lt_of_le_of_lt n.le_24 (by decide)
  rw [SyncState.cnt, BitVec.toNat_ofNat, Nat.mod_eq_of_lt hlt]

theorem SyncState.cnt_toNat_le (S : SyncState) : S.cnt.toNat ≤ 24 := by
  cases S with
  | awaitingHeader => decide
  | reading n => exact n.cnt_toNat.trans_le n.le_24

theorem SyncState.ofCnt_of_gt {c : BitVec 5} (h : 25 ≤ c.toNat) : SyncState.ofCnt c = none := by
  have h0 : c.toNat ≠ 0 := by omega
  rw [SyncState.ofCnt, dif_neg h0, dif_neg (Nat.not_le.2 h)]

theorem SyncState.ofCnt_cnt (S : SyncState) : SyncState.ofCnt S.cnt = some S := by
  cases S with
  | awaitingHeader => rfl
  | reading n =>
    have h0 : (SyncState.cnt (.reading n)).toNat ≠ 0 := n.cnt_toNat ▸ Nat.ne_of_gt n.one_le
    rw [SyncState.ofCnt, dif_neg h0, dif_pos (SyncState.cnt_toNat_le _)]
    exact congrArg (some ∘ SyncState.reading) (Position.eq_of_count n.cnt_toNat)

/-- The codes name the 25 states: a state is decoded from its own code only. -/
theorem SyncState.cnt_of_ofCnt {c : BitVec 5} {S : SyncState} (h : SyncState.ofCnt c = some S) : S.cnt = c := by
  unfold SyncState.ofCnt at h
  split at h
  next h0 =>
    cases h
    exact (BitVec.eq_of_toNat_eq h0).symm
  next h0 =>
    split at h
    next h24 =>
      cases h
      exact BitVec.eq_of_toNat_eq (Position.cnt_toNat _)
    next => cases h

/-- Settles O29: a count is its own code, and the codes above 24 decode to nothing. -/
theorem cntEncodesTheStates : Obligations.CntEncodesTheStates :=
  ⟨fun S => ⟨S.ofCnt_cnt, S.cnt_toNat_le⟩, fun _ => SyncState.ofCnt_of_gt, fun _ _ => SyncState.cnt_of_ofCnt, rfl,
    Position.cnt_toNat⟩

end Sys2Proof.Machine
end

section
/-! PROOF. Runs seen from the host: FEEDFRAME (30_encoding.md R74), E words among T words (20_memory.md R49), the host's
list of words (70_reset_and_hazards.md R240), and the false lock that never ends (R236). -/

namespace Sys2Proof.Machine

/-- The run of the later words, with what the first word emits put before it. -/
theorem run_cons_of_run {k : Nat} {w : PortWord} {ws : List PortWord} {s t : State} {es : List Emission}
    (h : run (nextIndex k w) ws (after (decodeWord w) s) = some (es, t)) :
    run k (w :: ws) s = some (emission k w (after (decodeWord w) s) ++ es, t) := by
  rw [run_cons, h, Option.map_some]

end Sys2Proof.Machine

namespace Sys2Proof.Safety

open Sys2Proof.Machine

/-- E words left out of the run of one of two states that agree are seen neither in the results nor in S: such a word
emits nothing, takes no step number and keeps the agreement. -/
theorem SameMeaning.run_filter_isT {s t : State} (h : SameMeaning s t) (k : Nat) (ws : List PortWord) :
    ∃ es s' t', run k ws s = some (es, s') ∧ run k (ws.filter PortWord.isT) t = some (es, t') ∧ s'.sync = t'.sync := by
  induction ws generalizing k s t with
  | nil => exact ⟨[], s, t, rfl, rfl, h.1⟩
  | cons w ws ih =>
    cases w with
    | t v =>
      obtain ⟨es, s', t', hs, ht, hsync⟩ := ih (h.after_same (decodeT v)) (k + 1)
      refine ⟨_, s', t', run_cons_of_run (w := .t v) hs, ?_, hsync⟩
      rw [h.emission_eq k (.t v)]
      exact run_cons_of_run (w := .t v) ht
    | e e =>
      obtain ⟨es, s', t', hs, ht, hsync⟩ := ih (s := after (decodeE e) s) h k
      exact ⟨es, s', t', run_cons_of_run (w := .e e) hs, ht, hsync⟩

/-- Settles O35: a state agrees with itself, and an E word keeps that agreement without a step of SYNC. -/
theorem encWordsDoNotInfluenceSync : Obligations.EncWordsDoNotInfluenceSync := by
  intro ws s
  have hself : SameMeaning s s := ⟨rfl, fun _ _ _ _ => rfl⟩
  obtain ⟨es, s', t', hs, ht, hsync⟩ := hself.run_filter_isT 1 ws
  refine ⟨observe_isSome ws s, ?_⟩
  rw [observe, observe, hs, ht, Option.map_some, Option.map_some, hsync]

end Sys2Proof.Safety

namespace Sys2Proof.Machine

/-- Settles O33: the frame ENCODE makes passes VALIDATE and decodes to the packet, and is fed from the AwaitingHeader
that RESYNC leaves. -/
theorem feedFrameReturnsThePacket : Obligations.FeedFrameReturnsThePacket := by
  intro s p
  have hcomplete : complete (encodeFrame (packE p)) = .ok p := by
    rw [complete_of_pass (validateFrame_encodeFrame _), decodeOfEncodedFrame, unpackE_packE]
  obtain ⟨t, hrun, ht⟩ := run_feeds_frame (s := after .resync s) 2 rfl (encodeFrame_header (packE p))
  rw [hcomplete] at hrun
  exact ⟨t, (run_cons_of_result_none 1 (w := encode .resync) _ rfl).trans hrun, ht⟩

/-! ### The host's list -/

theorem feedByte_with_pending (b : Byte) (s : State) (ws : List PortWord) :
    feedByte b { s with pending := ws } = { feedByte b s with pending := ws } := by
  obtain ⟨hs, rfl, h⟩ | ⟨hs, hb, h⟩ | ⟨n, hn, hs, h⟩ | ⟨n, hn, hs, h⟩ := feedByte_cases b s
  · rw [h, feedByte_awaiting_header (s := { s with pending := ws }) hs]; rfl
  · rw [h, feedByte_awaiting_other (s := { s with pending := ws }) hs hb]; rfl
  · rw [h, feedByte_reading (s := { s with pending := ws }) b hs hn]; rfl
  · rw [h, feedByte_last (s := { s with pending := ws }) b hs hn]; rfl

/-- No operation reads or changes the host's list. -/
theorem after_with_pending (i : Instr) (s : State) (ws : List PortWord) :
    after i { s with pending := ws } = { after i s with pending := ws } := by
  cases i with
  | reset => rfl
  | idle => rfl
  | feed b => exact feedByte_with_pending b s ws
  | resync => rfl
  | resyncFeed b => exact feedByte_with_pending b (s.setSync .awaitingHeader) ws
  | encode p => rfl

theorem after_pending (i : Instr) (s : State) : (after i s).pending = s.pending := by
  calc (after i s).pending = (after i { s with pending := s.pending }).pending := rfl
    _ = s.pending := by rw [after_with_pending]

theorem core_run_succ_of_step {M : Host.Core} {k : Nat} {s t : M.State} (h : M.step s = .next t) :
    M.run (k + 1) s = M.run k t := by
  simp only [Host.Core.run, h]

/-- With words in its list the machine takes the first and goes on with the others. -/
theorem core_step_pending_cons (w : PortWord) (ws : List PortWord) (s : State) :
    core.step { s with pending := w :: ws } = .next { after (decodeWord w) s with pending := ws } := by
  rw [← after_with_pending]
  exact (step_of_pending_cons (s := { s with pending := w :: ws }) rfl).trans (exec_eq_after _ _)

/-- The machine with the words of a run in its list ends where the run ends. -/
theorem core_run_of_run {k : Nat} {ws : List PortWord} {s t : State} {es : List Emission} (hs : s.pending = [])
    (h : run k ws s = some (es, t)) : core.run ws.length { s with pending := ws } = .next t := by
  induction ws generalizing k s es with
  | nil =>
    cases h
    exact congrArg (fun ws => Host.Outcome.next { t with pending := ws }) hs.symm
  | cons w ws ih =>
    rw [run_cons, Option.map_eq_some_iff] at h
    obtain ⟨⟨es', t'⟩, hrest, heq⟩ := h
    cases heq
    exact (core_run_succ_of_step (core_step_pending_cons w ws s)).trans
      (ih ((after_pending (decodeWord w) s).trans hs) hrest)

/-- Settles O36: every run completes, and the machine follows it word by word. -/
theorem machineRunsTheHostsList : Obligations.MachineRunsTheHostsList := by
  intro k ws s hs
  obtain ⟨es, t, hrun⟩ := run_completes ws k s
  exact ⟨es, t, hrun, core_run_of_run hs hrun⟩

/-! ### The false lock -/

/-- Bytes other than the header leave AwaitingHeader and emit nothing (40_synchronizer.md R102). -/
theorem run_feeds_of_no_header {bs : List Byte} (hbs : ∀ b ∈ bs, b ≠ Config.header) (k : Nat) {s : State}
    (hs : s.sync = .awaitingHeader) :
    ∃ t, run k (feeds bs) s = some ([], t) ∧ t.sync = .awaitingHeader := by
  induction bs generalizing k s with
  | nil => exact ⟨s, rfl, hs⟩
  | cons b bs ih =>
    obtain ⟨hb, hrest⟩ := List.forall_mem_cons.1 hbs
    obtain ⟨hnone, -, hother⟩ := feedByte_of_awaiting hs b
    obtain ⟨t, hrun, ht⟩ := ih hrest (k + 1) (hother hb).1
    exact ⟨t, (run_feeds_cons_of_result_none k bs hnone).trans hrun, ht⟩

/-- Copies of a frame with the header, fed from AwaitingHeader, give its result once each. -/
theorem run_feeds_replicate_frame {f : Frame} (hf : f[0] = Config.header) (m k : Nat) {s : State}
    (hs : s.sync = .awaitingHeader) :
    ∃ es t, run k (feeds (List.replicate m f.toList).flatten) s = some (es, t) ∧
      es.map Emission.result = List.replicate m (complete f) ∧ t.sync = .awaitingHeader := by
  induction m generalizing k s with
  | zero => exact ⟨[], s, rfl, rfl, hs⟩
  | succ m ih =>
    obtain ⟨t, hfirst, ht⟩ := run_feeds_frame k hs hf
    obtain ⟨es, u, hrest, hes, hu⟩ := ih (k + f.toList.length) ht
    refine ⟨_, u, run_feeds_append hfirst hrest, ?_, hu⟩
    rw [List.map_append, hes]
    rfl

/-- Copies of a text between the two halves of its rotation. -/
theorem append_flatten_replicate_rotate {α : Type} (as bs : List α) (m : Nat) :
    as ++ (List.replicate m (bs ++ as)).flatten = (List.replicate m (as ++ bs)).flatten ++ as := by
  induction m with
  | zero => simp
  | succ m ih => simp [List.replicate_succ, ih]

/-- The frame SYNC reads in the false lock: the 13 bytes of one copy from the payload's 0x0F on, then the 12 bytes up to
the next. -/
def falseFrame : Frame := #v[0x0F, 0, 0, 0, 0, 0, 0, 0, 0, 0, 0, 0, 0, 0x0F, 0, 0, 0, 0, 0, 0, 0, 0, 0, 0, 0]

theorem falseFrame_toList :
    falseFrame.toList = (Config.header :: List.replicate 12 0) ++ (Config.header :: List.replicate 11 0) := rfl

/-- A header and fewer than 24 bytes after it emit nothing and leave S counting them. -/
theorem run_feeds_partial_frame {s : State} (k : Nat) (hs : s.sync = .awaitingHeader) {bs : List Byte}
    (hlen : bs.length < 24) :
    ∃ t, run k (feeds (Config.header :: bs)) s = some ([], t) ∧
      ∃ n : Position, t.sync = .reading n ∧ n.count = 1 + bs.length := by
  obtain ⟨hnone, hheader, -⟩ := feedByte_of_awaiting hs Config.header
  obtain ⟨⟨n, hn, hn1⟩, -⟩ := hheader rfl
  obtain ⟨es, t, hrun, -, hend⟩ := run_feeds_of_reading bs (k + 1) hn (by omega)
  obtain ⟨rfl, m, hm, hcount⟩ := hend (by omega)
  exact ⟨t, (run_feeds_cons_of_result_none k bs hnone).trans hrun, m, hm, hn1 ▸ hcount⟩

/-- Settles O37: after 11 bytes that are no header the bytes fed are m copies of the false frame, each with its one
result, and the first 13 bytes of the next. -/
theorem falseLockCanLastForEver : Obligations.FalseLockCanLastForEver := by
  intro m s hs fb wrong
  have hcomplete : complete falseFrame = .ok wrong := by decide
  have hbytes : fb.toList.tail ++ (List.replicate m fb.toList).flatten =
      List.replicate 11 0 ++ ((List.replicate m falseFrame.toList).flatten ++ Config.header :: List.replicate 12 0) := by
    rw [falseFrame_toList, ← append_flatten_replicate_rotate, ← List.append_assoc]
    rfl
  obtain ⟨t, hskip, ht⟩ := run_feeds_of_no_header (bs := List.replicate 11 0) (by decide) 1 hs
  obtain ⟨es, u, hframes, hes, hu⟩ := run_feeds_replicate_frame (f := falseFrame) rfl m _ ht
  obtain ⟨v, hrest, n, hn, hcount⟩ := run_feeds_partial_frame _ hu (bs := List.replicate 12 0) (by decide)
  refine ⟨es, v, n, ?_, hcomplete ▸ hes, hn, hcount⟩
  rw [hbytes]
  simpa using run_feeds_append hskip (run_feeds_append hframes hrest)

end Sys2Proof.Machine
end

section
/-! PROOF. The byte table of DECODE (42_codec.md R151) and the OR table of ENCODE (R161): each is one formula, in the
place where a channel's bits start in a byte, written out for the sixteen channels and the 22 payload bytes. -/

namespace Sys2Proof.Machine

/-! ### DECODE -/

/-- Bit j of a channel that starts at bit r of byte k. -/
theorem decodeFrame_ch_getLsbD_of_start (f : Frame) {i k r j : Nat} (hstart : 8 * (k - 1) + r = 11 * i)
    (hi : i < 16) (hk : 1 ≤ k) (hj : j < 11) :
    (decodeFrame f).ch[i].getLsbD j = (f[k + (r + j) / 8]'(by omega)).getLsbD ((r + j) % 8) := by
  have hbyte : 1 + (11 * i + j) / 8 = k + (r + j) / 8 := by omega
  have hplace : (11 * i + j) % 8 = (r + j) % 8 := by omega
  refine (decodeFrame_ch_getLsbD f ⟨i, hi⟩ hj).trans ?_
  simp only [hbyte, hplace]

/-- A channel that starts at bit r of byte k, read from three bytes: the bits from r on of the first, all of the second
and the low bits of the third. -/
theorem decodeFrame_ch_of_three_bytes (f : Frame) {i : Nat} (k r : Nat) (hstart : 8 * (k - 1) + r = 11 * i)
    (hi : i < 16 := by decide) (hk : 1 ≤ k := by decide) (hk22 : k + 2 < 25 := by decide) (hr : r < 8 := by decide) :
    (decodeFrame f).ch[i] = maskChan (wideByte f ⟨k, by omega⟩ >>> r ||| wideByte f ⟨k + 1, by omega⟩ <<< (8 - r)
      ||| wideByte f ⟨k + 2, hk22⟩ <<< (16 - r)) := by
  refine BitVec.eq_of_getLsbD_eq fun j hj => ?_
  have hj19 : j < 19 := by omega
  have hbeyond : ∀ (b : Byte) {m : Nat}, 8 ≤ m → b.getLsbD m = false := fun b _ => BitVec.getLsbD_of_ge b _
  rw [decodeFrame_ch_getLsbD_of_start f hstart hi hk hj, maskChan_getLsbD _ j hj]
  simp only [BitVec.getLsbD_or, BitVec.getLsbD_ushiftRight, BitVec.getLsbD_shiftLeft, wideByte_getLsbD, hj19]
  obtain h | ⟨h, h'⟩ | h : r + j < 8 ∨ (8 ≤ r + j ∧ r + j < 16) ∨ 16 ≤ r + j := by omega
  · have hd : (r + j) / 8 = 0 := by omega
    have hm : (r + j) % 8 = r + j := by omega
    have h2 : j < 8 - r := by omega
    have h3 : j < 16 - r := by omega
    simp [hd, hm, h2, h3]
  · have hd : (r + j) / 8 = 1 := by omega
    have hm : (r + j) % 8 = j - (8 - r) := by omega
    have h2 : ¬ j < 8 - r := by omega
    have h3 : j < 16 - r := by omega
    simp [hd, hm, h2, h3, hbeyond _ h]
  · have hd : (r + j) / 8 = 2 := by omega
    have hm : (r + j) % 8 = j - (16 - r) := by omega
    have h1 : 8 ≤ r + j := by omega
    have h2 : 8 ≤ j - (8 - r) := by omega
    have h3 : ¬ j < 16 - r := by omega
    simp [hd, hm, h3, hbeyond _ h1, hbeyond _ h2]

/-- A term shifted past the channel's 11 bits is masked away. -/
theorem maskChan_or_shiftLeft_of_le (x y : BitVec 19) {n : Nat} (hn : 11 ≤ n) :
    maskChan (x ||| y <<< n) = maskChan x := by
  refine BitVec.eq_of_getLsbD_eq fun j hj => ?_
  have hjn : j < n := by omega
  rw [maskChan_getLsbD _ j hj, maskChan_getLsbD _ j hj, BitVec.getLsbD_or, BitVec.getLsbD_shiftLeft]
  simp [hjn]

/-- Two bytes are enough for a channel that starts at bit 5 or below. -/
theorem decodeFrame_ch_of_two_bytes (f : Frame) {i : Nat} (k r : Nat) (hstart : 8 * (k - 1) + r = 11 * i)
    (hi : i < 16 := by decide) (hk : 1 ≤ k := by decide) (hk22 : k + 2 < 25 := by decide) (hr : r ≤ 5 := by decide) :
    (decodeFrame f).ch[i] = maskChan (wideByte f ⟨k, by omega⟩ >>> r ||| wideByte f ⟨k + 1, by omega⟩ <<< (8 - r)) := by
  rw [decodeFrame_ch_of_three_bytes f k r hstart hi hk hk22 (by omega), maskChan_or_shiftLeft_of_le _ _ (by omega)]

/-- A channel that starts at the first bit of a byte needs no shift of it. -/
theorem decodeFrame_ch_of_byte_start (f : Frame) {i : Nat} (k : Nat) (hstart : 8 * (k - 1) = 11 * i)
    (hi : i < 16 := by decide) (hk : 1 ≤ k := by decide) (hk22 : k + 2 < 25 := by decide) :
    (decodeFrame f).ch[i] = maskChan (wideByte f ⟨k, by omega⟩ ||| wideByte f ⟨k + 1, by omega⟩ <<< 8) := by
  have h := decodeFrame_ch_of_two_bytes f k 0 hstart hi hk hk22
  rwa [BitVec.ushiftRight_zero] at h

/-- Settles O41, row by row: channel i starts at bit 11i mod 8 of byte 1 + 11i div 8. -/
theorem decodeMatchesByteTable : Obligations.DecodeMatchesByteTable := by
  intro f
  ext i hi : 1
  interval_cases i
  · exact decodeFrame_ch_of_byte_start f 1 rfl
  · exact decodeFrame_ch_of_two_bytes f 2 3 rfl
  · exact decodeFrame_ch_of_three_bytes f 3 6 rfl
  · exact decodeFrame_ch_of_two_bytes f 5 1 rfl
  · exact decodeFrame_ch_of_two_bytes f 6 4 rfl
  · exact decodeFrame_ch_of_three_bytes f 7 7 rfl
  · exact decodeFrame_ch_of_two_bytes f 9 2 rfl
  · exact decodeFrame_ch_of_two_bytes f 10 5 rfl
  · exact decodeFrame_ch_of_byte_start f 12 rfl
  · exact decodeFrame_ch_of_two_bytes f 13 3 rfl
  · exact decodeFrame_ch_of_three_bytes f 14 6 rfl
  · exact decodeFrame_ch_of_two_bytes f 16 1 rfl
  · exact decodeFrame_ch_of_two_bytes f 17 4 rfl
  · exact decodeFrame_ch_of_three_bytes f 18 7 rfl
  · exact decodeFrame_ch_of_two_bytes f 20 2 rfl
  · exact decodeFrame_ch_of_two_bytes f 21 5 rfl

/-! ### ENCODE -/

/-- Bit j of payload byte k, which starts at bit r of channel i. -/
theorem encodeFrame_packE_getLsbD_of_start (p : Packet) {i k r j : Nat} (hstart : 11 * i + r = 8 * (k - 1))
    (hk : 1 ≤ k) (hk22 : k ≤ 22) (hj : j < 8) :
    ((encodeFrame (packE p))[k]).getLsbD j = (p.ch[i + (r + j) / 11]'(by omega)).getLsbD ((r + j) % 11) := by
  have hch : (8 * (k - 1) + j) / 11 = i + (r + j) / 11 := by omega
  have hplace : (8 * (k - 1) + j) % 11 = (r + j) % 11 := by omega
  rw [encodeFrame_payload_eq_extract _ hk hk22, BitVec.getLsbD_extractLsb', packE_getLsbD_of_lt p (by omega)]
  simp only [hj, hch, hplace, decide_true, Bool.true_and]

/-- A fragment at the low end of its byte holds the channel's bits from r on: the mask passes those there are. -/
theorem fragment_low_getLsbD (c : Chan) (r : Nat) {m : BitVec 16} (hm : ∀ n < 8, r + n < 11 → m.getLsbD n = true)
    {j : Nat} (hj : j < 8) : (fragment c r m 0).getLsbD j = c.getLsbD (r + j) := by
  rw [fragment_getLsbD c r m 0 j hj, Nat.sub_zero]
  by_cases hlt : r + j < 11
  · have h16 : r + j < 16 := by omega
    simp [hm j hj hlt, h16]
  · simp [BitVec.getLsbD_of_ge c (r + j) (Nat.le_of_not_lt hlt)]

/-- A fragment shifted up by l holds the channel's low bits from place l on. -/
theorem fragment_high_getLsbD (c : Chan) (l : Nat) {m : BitVec 16} (hm : ∀ n < 8, l + n < 8 → m.getLsbD n = true)
    {j : Nat} (hj : j < 8) : (fragment c 0 m l).getLsbD j = (decide (l ≤ j) && c.getLsbD (j - l)) := by
  rw [fragment_getLsbD c 0 m l j hj, Nat.zero_add]
  by_cases hl : l ≤ j
  · have h16 : j - l < 16 := by omega
    have hbit := hm (j - l) (by omega) (by omega)
    rw [hbit]
    simp [h16]
  · simp [hl]

/-- A byte that starts at bit 3 or below of a channel lies in that channel. -/
theorem encodeFrame_packE_of_one_fragment (p : Packet) {k : Nat} (i r : Nat) (hstart : 11 * i + r = 8 * (k - 1))
    (hk : 1 ≤ k := by decide) (hk22 : k ≤ 22 := by decide) (hr : r ≤ 3 := by decide) :
    (encodeFrame (packE p))[k] = fragment (p.ch[i]'(by omega)) r 0xFF 0 := by
  have hmask : ∀ n < 8, (0xFF : BitVec 16).getLsbD n = true := by decide
  refine BitVec.eq_of_getLsbD_eq fun j hj => ?_
  have hd : (r + j) / 11 = 0 := by omega
  have hm : (r + j) % 11 = r + j := by omega
  rw [encodeFrame_packE_getLsbD_of_start p hstart hk hk22 hj, fragment_low_getLsbD _ r (fun n hn _ => hmask n hn) hj]
  simp only [hd, hm, Nat.add_zero]

/-- A byte that starts above bit 3 of a channel ends in the next one, the first bit of which stands at 11 - r. -/
theorem encodeFrame_packE_of_two_fragments (p : Packet) {k : Nat} (i r : Nat) {m m' : BitVec 16}
    (hstart : 11 * i + r = 8 * (k - 1)) (hm : ∀ n < 8, r + n < 11 → m.getLsbD n = true := by decide)
    (hm' : ∀ n < 8, 11 - r + n < 8 → m'.getLsbD n = true := by decide)
    (hk : 1 ≤ k := by decide) (hk22 : k ≤ 22 := by decide) (hr : 3 < r ∧ r < 11 := by decide) :
    (encodeFrame (packE p))[k] =
      fragment (p.ch[i]'(by omega)) r m 0 ||| fragment (p.ch[i + 1]'(by omega)) 0 m' (11 - r) := by
  refine BitVec.eq_of_getLsbD_eq fun j hj => ?_
  rw [encodeFrame_packE_getLsbD_of_start p hstart hk hk22 hj, BitVec.getLsbD_or, fragment_low_getLsbD _ r hm hj,
    fragment_high_getLsbD _ (11 - r) hm' hj]
  by_cases hlt : r + j < 11
  · have hd : (r + j) / 11 = 0 := by omega
    have hmod : (r + j) % 11 = r + j := by omega
    have hbelow : ¬ 11 - r ≤ j := by omega
    simp [hd, hmod, hbelow]
  · have hd : (r + j) / 11 = 1 := by omega
    have hmod : (r + j) % 11 = j - (11 - r) := by omega
    have habove : 11 - r ≤ j := by omega
    simp [hd, hmod, habove, BitVec.getLsbD_of_ge _ _ (Nat.le_of_not_lt hlt)]

/-- Settles O45, row by row: payload byte k starts at bit 8(k-1) mod 11 of channel 8(k-1) div 11. -/
theorem encodeMatchesOrTable : Obligations.EncodeMatchesOrTable := by
  intro p
  ext k hk : 1
  interval_cases k
  · exact encodeFrame_header _
  · exact encodeFrame_packE_of_one_fragment p 0 0 rfl
  · exact encodeFrame_packE_of_two_fragments p 0 8 rfl
  · exact encodeFrame_packE_of_two_fragments p 1 5 rfl
  · exact encodeFrame_packE_of_one_fragment p 2 2 rfl
  · exact encodeFrame_packE_of_two_fragments p 2 10 rfl
  · exact encodeFrame_packE_of_two_fragments p 3 7 rfl
  · exact encodeFrame_packE_of_two_fragments p 4 4 rfl
  · exact encodeFrame_packE_of_one_fragment p 5 1 rfl
  · exact encodeFrame_packE_of_two_fragments p 5 9 rfl
  · exact encodeFrame_packE_of_two_fragments p 6 6 rfl
  · exact encodeFrame_packE_of_one_fragment p 7 3 rfl
  · exact encodeFrame_packE_of_one_fragment p 8 0 rfl
  · exact encodeFrame_packE_of_two_fragments p 8 8 rfl
  · exact encodeFrame_packE_of_two_fragments p 9 5 rfl
  · exact encodeFrame_packE_of_one_fragment p 10 2 rfl
  · exact encodeFrame_packE_of_two_fragments p 10 10 rfl
  · exact encodeFrame_packE_of_two_fragments p 11 7 rfl
  · exact encodeFrame_packE_of_two_fragments p 12 4 rfl
  · exact encodeFrame_packE_of_one_fragment p 13 1 rfl
  · exact encodeFrame_packE_of_two_fragments p 13 9 rfl
  · exact encodeFrame_packE_of_two_fragments p 14 6 rfl
  · exact encodeFrame_packE_of_one_fragment p 15 3 rfl
  · exact (encodeFrame_flags _).trans (flagByteOf_packE p)
  · exact encodeFrame_footer _

end Sys2Proof.Machine
end

section
/-! PROOF. The assembler lines and their words (30_encoding.md R73, R74). -/

namespace Sys2Proof.Machine

theorem assembleLine_of_wf {l : Line} (h : l.wf = true) : assembleLine l = some ((Line.instrs l).map encode) :=
  if_pos h

theorem Line.packetOk_iff (ch : List Nat) (fl : Nat) :
    Line.packetOk ch fl = true ↔ ch.length = 16 ∧ (∀ c ∈ ch, c ≤ 2047) ∧ fl < 16 := by
  simp [Line.packetOk, and_assoc]

/-- A byte fills the eight bits below T[10:8], so OR is addition there. -/
theorem ofNat_or_byte {b : Nat} (hb : b < 256) (q : Nat) :
    BitVec.ofNat 11 (256 * q) ||| (BitVec.ofNat 8 b).setWidth 11 = BitVec.ofNat 11 (256 * q + b) := by
  rw [BitVec.setWidth_ofNat_of_le_of_lt (by decide) hb, ← BitVec.ofNat_or]
  exact congrArg (BitVec.ofNat 11) (Nat.two_pow_add_eq_or_of_lt (i := 8) hb q).symm

theorem encode_feed_ofNat {b : Nat} (hb : b < 256) :
    encode (.feed (BitVec.ofNat 8 b)) = .t (BitVec.ofNat 11 (0x100 + b)) :=
  congrArg PortWord.t (ofNat_or_byte hb 1)

theorem encode_resyncFeed_ofNat {b : Nat} (hb : b < 256) :
    encode (.resyncFeed (BitVec.ofNat 8 b)) = .t (BitVec.ofNat 11 (0x300 + b)) :=
  congrArg PortWord.t (ofNat_or_byte hb 3)

theorem assembleLine_feed {b : Nat} (hb : b < 256) :
    assembleLine (.feed b) = some [.t (BitVec.ofNat 11 (0x100 + b))] := by
  rw [assembleLine_of_wf (l := .feed b) (decide_eq_true hb), ← encode_feed_ofNat hb]
  rfl

theorem assembleLine_resyncFeed {b : Nat} (hb : b < 256) :
    assembleLine (.resyncFeed b) = some [.t (BitVec.ofNat 11 (0x300 + b))] := by
  rw [assembleLine_of_wf (l := .resyncFeed b) (decide_eq_true hb), ← encode_resyncFeed_ofNat hb]
  rfl

/-- FEEDS is its FEED words in order (30_encoding.md R74). -/
theorem assembleLine_feeds {bs : List Nat} (hbs : ∀ b ∈ bs, b < 256) :
    assembleLine (.feeds bs) = some (bs.map fun b => .t (BitVec.ofNat 11 (0x100 + b))) := by
  have hwf : Line.wf (.feeds bs) = true := List.all_eq_true.2 fun b hb => decide_eq_true (hbs b hb)
  rw [assembleLine_of_wf hwf, Line.instrs, List.map_map]
  exact congrArg some (List.map_congr_left fun b hb => encode_feed_ofNat (hbs b hb))

/-- FEEDFRAME is FEEDS of the bytes of the ENCODE with the same operands (30_encoding.md R74). -/
theorem assembleLine_feedframe {ch : List Nat} {fl : Nat} (h : Line.packetOk ch fl = true) :
    assembleLine (.feedframe ch fl) = some (feedFrame (packetOf ch fl)) := by
  rw [assembleLine_of_wf (l := .feedframe ch fl) h, Line.instrs, List.map_map]
  rfl

/-- A channel value in range is kept by the 11-bit field. -/
theorem packetOf_ch_toNat {ch : List Nat} (hlen : ch.length = 16) (hch : ∀ c ∈ ch, c ≤ 2047) (fl : Nat) (i : Fin 16) :
    ((packetOf ch fl).ch[i]).toNat = ch.getD i.val 0 := by
  have hi : i.val < ch.length := i.isLt.trans_eq hlen.symm
  have hle : ch.getD i.val 0 ≤ 2047 := by
    rw [List.getD_eq_getElem ch 0 hi]
    exact hch _ (List.getElem_mem hi)
  simpa [packetOf] using Nat.lt_succ_of_le hle

/-- Settles O52: each line in range assembles to the words of its operations. -/
theorem assemblerLinesEncode : Obligations.AssemblerLinesEncode := by
  refine ⟨rfl, rfl, rfl, fun b hb => ⟨assembleLine_feed hb, assembleLine_resyncFeed hb⟩,
    fun bs hbs => assembleLine_feeds hbs, fun ch fl hlen hch hfl => ?_⟩
  have hok := (Line.packetOk_iff ch fl).2 ⟨hlen, hch, hfl⟩
  exact ⟨packetOf ch fl, assembleLine_of_wf hok, assembleLine_feedframe hok, packetOf_ch_toNat hlen hch fl, rfl, rfl,
    rfl, rfl⟩

end Sys2Proof.Machine
end
